-- ==== Sys2Proof/Word.lean ====
section
/-!
DEFINITION. The words and numbers every other file uses: bytes, the numbers of ports, records, tags and
guard lines, and the nine links.
-/
namespace Sys2Proof

/-- One byte on a link (R184). -/
abbrev Byte := BitVec 8

/-- A client port, P0 to P7 (00_scope.md section 6.2). -/
abbrev Port := Fin 8

/-- The index of a lease record, 0 to 511 (R1). -/
abbrev Index := Fin 512

/-- The reuse tag of a lease record, 0 to 127; it advances modulo 128 (R1). -/
abbrev Tag := Fin 128

/-- The number of a guard line, 0 to 15 (R111). -/
abbrev LineNo := Fin 16

/-- One of the nine SPI target links: a client port's, or the management link (R152). -/
inductive Link
  | client (p : Port)
  | management
deriving DecidableEq, Repr

end Sys2Proof
end

