-- ==== Sys2Proof/Syntax.lean ====
section
/-!
DEFINITION. The commands of the part: one constructor per row of spec/opcode_table.json, in the table's order.
A request's row (OPEN to ACK_ALERTS, UNKNOWN_KIND) carries no operand: the request is the frame in the slot that the
intake arbiter grants, put there by SUBMIT (R155, R168). DESIGN CHOICE, log entry 2.
-/
namespace Sys2Proof

/-- The steps of the part. -/
inductive Instr
  /-- SUBMIT: a SUBMIT transaction ends (R153). `bytes` are the complete bytes after the command byte; `clocked` is the
  number of bytes clocked after it in each span of the transaction (one span, and one more for each event that changed what
  the part shifts out meanwhile; log entry 12). -/
  | submit (link : Link) (bytes : List Byte) (clocked : List Nat)
  /-- COLLECT: a COLLECT transaction ends (R154). -/
  | collect (link : Link) (clocked : List Nat)
  /-- IGNORED_TRANSACTION: a transaction with another first byte, or with none complete, ends (R152). -/
  | ignoredTransaction (link : Link) (clocked : List Nat)
  /-- OPEN (R161). -/
  | openSession
  /-- LEAVE (R162). -/
  | leave
  /-- CLAIM (R46). -/
  | claim
  /-- RENEW (R68). -/
  | renew
  /-- RELEASE (R72). -/
  | release
  /-- UPGRADE (R74). -/
  | upgrade
  /-- DOWNGRADE (R80). -/
  | downgrade
  /-- LEASE_STATUS (R18). -/
  | leaseStatus
  /-- FETCH_NOTICES (R122). -/
  | fetchNotices
  /-- ACKNOWLEDGE (R126). -/
  | acknowledge
  /-- QUERY (R39). -/
  | query
  /-- VALIDATE (R109). -/
  | validate
  /-- DECLARE (R30). -/
  | declare
  /-- AMEND (R31). -/
  | amend
  /-- RETIRE (R36). -/
  | retire
  /-- REVOKE (R174). -/
  | revoke
  /-- SET_QUOTA (R172). -/
  | setQuota
  /-- PORT_RESET (R176). -/
  | portReset
  /-- CLEAR_ALL (R178). -/
  | clearAll
  /-- CLOCK_SETUP (R140). -/
  | clockSetup
  /-- CLOCK_START (R141). -/
  | clockStart
  /-- CLOCK_HOLD (R142). -/
  | clockHold
  /-- CLOCK_RESUME (R144). -/
  | clockResume
  /-- DISCIPLINE (R150). -/
  | discipline
  /-- DEVICE_STATUS (R180). -/
  | deviceStatus
  /-- PORT_STATUS (R181). -/
  | portStatus
  /-- ACK_ALERTS (R131). -/
  | ackAlerts
  /-- UNKNOWN_KIND: the engine takes a request whose code names no kind (R167). -/
  | unknownKind
  /-- PORT_RST_RISE: the reset line of port `p` rises (R163). -/
  | portRstRise (p : Port)
  /-- PORT_RST_FALL: the reset line of port `p` falls (R164). -/
  | portRstFall (p : Port)
  /-- RESET_ITEM: the engine executes the pending reset item of the lowest-numbered port (R163, R164). -/
  | resetItem
  /-- NRESET_FALL (R182). -/
  | nresetFall
  /-- NRESET_RISE (R183). -/
  | nresetRise
  /-- POWER_ON with nRESET at the level `high` (R182). -/
  | powerOn (high : Bool)
  /-- TICK_END: REFCLK runs to the end of the tick in progress (R136). -/
  | tickEnd
  /-- EXPIRY_OFFER (R91). -/
  | expiryOffer
  /-- EXPIRY_ITEM (R92). -/
  | expiryItem
  /-- GAP_ASSERT: the comparison of guard line `n` with the count (R115). -/
  | gapAssert (n : LineNo)
  /-- HOLD_TAKES_EFFECT: the tick end that completes a requested hold (R143). -/
  | holdTakesEffect
  /-- SYNC_EDGE: a rising edge on SYNC in phase step `step` of the tick in progress (R147, R148). -/
  | syncEdge (step : Fin 16)
  /-- SYNC_WINDOW_MISS: the open window of the mark just passed closes without an edge (R149). -/
  | syncWindowMiss
  /-- COMMAND_BYTE: the first byte of a transaction is complete (R152 to R154). `selectedInReset` says that chip select
  fell before device reset ended, so that the transaction is ignored (R182, R183). -/
  | commandByte (link : Link) (byte : Byte) (selectedInReset : Bool)
deriving DecidableEq, Repr

end Sys2Proof
end

