-- ==== Sys2Proof/Decode.lean ====
section
/-!
DEFINITION. Words as commands. No row of spec/opcode_table.json gives bits, so no word spells a command; the bytes of
request frames are read by Machine/Frames.lean and Machine/Operands.lean. DESIGN CHOICE, log entry 19.
-/
namespace Sys2Proof

/-- The command a word spells by the table's bits: none, since no row of the table gives bits (log entry 19). -/
def decodeTableWord (_nbits _w : Nat) : Option Instr := none

end Sys2Proof
end

