-- ==== Sys2Proof/Config.lean ====
section
/-!
DEFINITION. The numbers that fix this part: the largest count, token, term and wait, the sizes of its lists, and the
link byte values of Table 11-1. The spec leaves no result value open, so no free value stands here.
-/
namespace Sys2Proof.Config

/-- The largest lease-clock count, at which the count stops (R138). -/
abbrev maxCount : Nat := 281474976710655

/-- The largest fencing token; a counter that stands here issues no more (R106). -/
abbrev tokenLimit : Nat := 4294967295

/-- The largest term and the largest wait in ticks (R28, R43). -/
abbrev maxTerm : Nat := 4194303

/-- The number of directory slots (R23). -/
abbrev directorySize : Nat := 256

/-- The largest renewals count (R1). -/
abbrev maxRenewals : Nat := 65535

/-- The largest lapsed-unseen count (R14). -/
abbrev maxLapsed : Nat := 255

/-- The number of ticks in a trim period (R137). -/
abbrev trimPeriod : Nat := 1024

/-- The number of ticks between two marks (R146). -/
abbrev markSpacing : Nat := 1000

/-- The number of phase steps in a tick (R136). -/
abbrev stepsPerTick : Nat := 16

/-- The quota of a client port after device reset (R16). -/
abbrev resetQuota : Nat := 64

/-- The divisor after device reset (R151). -/
abbrev resetDivisor : Nat := 1536

/-- The number of frame bytes the part stores; later ones are counted only (R185). -/
abbrev storedFrameBytes : Nat := 70

/-- The command byte of a SUBMIT transaction (Table 11-1). -/
abbrev submitByte : Byte := 0x5A#8

/-- The command byte of a COLLECT transaction (Table 11-1). -/
abbrev collectByte : Byte := 0xC3#8

/-- The acceptance byte of a frame that will be taken (Table 11-1). -/
abbrev acceptedByte : Byte := 0x6E#8

/-- The acceptance byte of a frame that is dropped because the exchange is PENDING (Table 11-1). -/
abbrev busyByte : Byte := 0xB1#8

/-- What the part shifts out while a port's reset line is high (Table 11-1). -/
abbrev offlineIgnoredByte : Byte := 0xF0#8

/-- The marker of a COLLECT in IDLE or PENDING (Table 11-1). -/
abbrev notReadyByte : Byte := 0x9C#8

/-- Every other byte the part shifts out (Table 11-1). -/
abbrev fillerByte : Byte := 0xFF#8

end Sys2Proof.Config
end

