-- ==== Sys2Proof/Machine/State.lean ====
section
/-!
DEFINITION. Everything the spec gives the part to hold, as plain data, with its values after device reset, and the
reasons a step can stop (no meaning of this model uses one).
-/
namespace Sys2Proof.Machine

/-- The mode of a lease (R1). -/
inductive Mode
  | shared
  | exclusive
deriving DecidableEq, Repr

/-- Why a lease ended (R1). -/
inductive CloseReason
  | lapsed
  | waitExpired
  | revoked
  | retired
deriving DecidableEq, Repr

/-- A handle names a lease record by its index and the tag it carries (R3). -/
structure Handle where
  index : Index
  tag : Tag
deriving DecidableEq, Repr

/-- The notice flags of a record (R118). -/
structure NoticeFlags where
  granted : Bool
  upgraded : Bool
  warning : Bool
  closed : Bool
deriving DecidableEq, Repr

/-- What a grant writes: the fencing token and the time of the grant or of the last upgrade (R1). -/
structure Grant where
  token : Nat
  grantedAt : Nat
deriving DecidableEq, Repr

/-- The state of a record that is not FREE, with the fields that Table 1-2 gives to that state only (R2, R5). -/
inductive LeasePhase
  /-- WAITING, with the wait deadline if the claim has one. -/
  | waiting (deadline : Option Nat)
  /-- HELD until `deadline`, the end of the term. -/
  | held (grant : Grant) (deadline : Nat) (upgradePending : Bool)
  /-- GRACE until `deadline`, the end of grace. -/
  | grace (grant : Grant) (deadline : Nat)
  /-- CLOSED; the grant is absent if the record closed from WAITING. -/
  | closed (grant : Option Grant) (reason : CloseReason)
deriving DecidableEq, Repr

/-- The per-lease fields of a record that is not FREE (R1, Table 1-2). -/
structure Lease where
  port : Port
  resource : Nat
  mode : Mode
  term : Nat
  renewals : Nat
  clientTag : Option (BitVec 32)
  flags : NoticeFlags
  phase : LeasePhase
deriving DecidableEq, Repr

/-- A lease record; FREE is the absence of a lease (R1, R2). -/
structure LeaseRecord where
  tag : Tag
  lease : Option Lease
deriving DecidableEq, Repr

/-- The Grant Engine's context of a client port (R14 to R17, R121). `lapsed` is the lapsed-unseen count. -/
structure PortContext where
  quota : Nat
  live : Nat
  closed : Nat
  notices : Nat
  lapsed : Nat
deriving DecidableEq, Repr

/-- The state of a declared entry; an UNDECLARED slot is not in the directory (R23, R24; log entry 10). -/
inductive EntryState
  | vacant
  | shared
  | exclusive
deriving DecidableEq, Repr

/-- The settings of an entry (R23, R28). -/
structure Settings where
  sharing : Bool
  maxSharers : Nat
  minTerm : Nat
  maxTerm : Nat
  grace : Nat
  maxWaiters : Nat
  guardLine : Option LineNo
  guardGap : Nat
deriving DecidableEq, Repr

/-- A declared resource entry (R23). The wait queue is the pending-upgrade reference `upgrade`, if there is one, and
behind it `waiters`, head first (R52; DESIGN CHOICE, log entry 11). -/
structure Entry where
  resource : Nat
  state : EntryState
  settings : Settings
  counter : Nat
  holders : List Handle
  upgrade : Option Handle
  waiters : List Handle
deriving DecidableEq, Repr

/-- A member of the deadline list (R86). -/
structure DeadlineItem where
  deadline : Nat
  index : Index
deriving DecidableEq, Repr

/-- The ten requesters of the intake arbiter (R168). -/
inductive Requester
  | port (p : Port)
  | management
  | expiryUnit
deriving DecidableEq, Repr

/-- The clock state (R139). -/
inductive ClockState
  | stopped
  | running
  | held
deriving DecidableEq, Repr

/-- The phase stage and the tick stage: the step of the tick in progress, the REFCLK cycles run in that step, and
whether a step 0 in progress carries the trim correction (R136, R137). -/
structure TickPhase where
  step : Fin 16
  cycle : Nat
  corrected : Bool
deriving DecidableEq, Repr

/-- The Lease Clock (R136 to R139). -/
structure LeaseClock where
  state : ClockState
  holdRequested : Bool
  count : Nat
  divisor : Nat
  trimSet : Int
  trimInUse : Int
  trimPosition : Nat
  phase : TickPhase
deriving DecidableEq, Repr

/-- The discipline state (R145). -/
inductive DisciplineState
  | off
  | acquiring
  | tracking
  | holdover
deriving DecidableEq, Repr

/-- The window of a mark: the count at the mark and the half-width in phase steps (R146). -/
structure SyncWindow where
  mark : Nat
  halfWidth : Nat
deriving DecidableEq, Repr

/-- The Sync Discipline (R145). `window` is the window of the mark that the tick in progress ends at, or has just
passed, until it closes (R146; log entry 8). -/
structure SyncDiscipline where
  state : DisciplineState
  origin : Option Nat
  hits : Nat
  misses : Nat
  window : Option SyncWindow
deriving DecidableEq, Repr

/-- The state of a guard line with its binding and, in GAP_WAIT, its assert at (R111). -/
inductive LineState
  | unbound
  | clear (resource : Nat)
  | gapWait (resource : Nat) (assertAt : Nat)
  | asserted (resource : Nat)
deriving DecidableEq, Repr

/-- A guard-line record (R111). -/
structure GuardLine where
  state : LineState
  lastDeassertedAt : Nat
deriving DecidableEq, Repr

/-- The statuses of Table 11-5. -/
inductive Status
  | ok | granted | queued | renewed | renewedLate | released | upgraded | upgradePending | downgraded
  | opened | sessionActive | left | heldAt | currentExclusive | currentShared | superseded | unissued
  | frameError | offline | staleSession
  | unknownKind | notPermitted | badArgument | clockStopped | clockRunning | wrongState | noResource | modeRefused
  | already | quota | exhausted | conflict | queueFull | tableFull | badHandle | notHeld | closedAlready | notLive
  | exists_ | directoryFull | guardInUse | inUse
deriving DecidableEq, Repr

/-- A request frame whose length and CRC are right (Table 11-2). -/
structure Frame where
  kind : Byte
  epoch : Byte
  requestId : Byte
  body : List Byte
  crc : BitVec 16
deriving DecidableEq, Repr

/-- A response frame less its CRC, which is computed from the rest when the frame is shifted out (Table 11-3, R186). -/
structure Response where
  status : Status
  kind : Byte
  epoch : Byte
  requestId : Byte
  now : Nat
  lapsed : Nat
  notices : Nat
  body : List Byte
deriving DecidableEq, Repr

/-- A replay record (R159). -/
structure Replay where
  requestId : Byte
  kind : Byte
  crc : BitVec 16
  response : Response
deriving DecidableEq, Repr

/-- The exchange state (R155). -/
inductive ExchangeState
  | idle
  | pending
  | ready
  | collected
deriving DecidableEq, Repr

/-- The exchange of one interface: its state, request slot, response buffer and replay record (R155, R159). -/
structure Exchange where
  state : ExchangeState
  slot : Option Frame
  buffer : Option Response
  replay : Option Replay
deriving DecidableEq, Repr

/-- What a first byte selects (R152). -/
inductive Selection
  | submit
  | collect
  | other
deriving DecidableEq, Repr

/-- What the end of a transaction does to its interface (R153, R154). -/
inductive AtEnd
  | takeFrame
  | markCollected
  | nothing
deriving DecidableEq, Repr

/-- What the part shifts out: `head`, and then `fill` for each further byte clocked (R153, R154). -/
structure Shift where
  head : List Byte
  fill : Byte
deriving DecidableEq, Repr

/-- A transaction whose command byte is complete and that has not ended. `shifts` are what the part shifts out in each
span of it, first span first; `abandoned` says that device reset fell upon it (R152 to R154, R182). -/
structure Transaction where
  selection : Selection
  atEnd : AtEnd
  shifts : List Shift
  abandoned : Bool
deriving DecidableEq, Repr

/-- A link: the transaction under way, and the bytes shifted out on it, from the command byte on (section 11.1): by the last
transaction that ended, or, while one is under way, during its command byte; what its spans shift out follows at its end,
when the outside says how long they were (log entry 12). -/
structure LinkState where
  transaction : Option Transaction
  shiftedOut : List Byte
deriving DecidableEq, Repr

/-- The session state of a client port (R160). -/
inductive Session
  | offline
  | online
  | inReset
deriving DecidableEq, Repr

/-- A client Port Interface, with its pending reset item (log entry 11) and the level of its reset line (R155, R159, R160,
R163). -/
structure ClientInterface where
  session : Session
  epoch : Byte
  exchange : Exchange
  resetItem : Bool
  resetLine : Bool
  link : LinkState
deriving DecidableEq, Repr

/-- The alert set (R130): TOKEN_LIMIT is set while it has a resource id, PORT_RESET while its set of ports is not
empty. -/
structure AlertSet where
  tablePressure : Bool
  tokenLimit : Option Nat
  syncLost : Bool
  syncAcquired : Bool
  portReset : Vector Bool 8
deriving DecidableEq, Repr

/-- The Management Interface (R166). `held` is the CLOCK-HOLD request whose HELD_AT is still owed (R142, R143). -/
structure ManagementInterface where
  exchange : Exchange
  held : Option Frame
  alerts : AlertSet
  link : LinkState
deriving DecidableEq, Repr

/-- The state of the part, and the queue of the commands that wait. -/
structure State where
  records : Vector LeaseRecord 512
  freePool : List Index
  closedOrder : List Index
  ports : Vector PortContext 8
  directory : List Entry
  deadlines : List DeadlineItem
  offer : Option Index
  arbiter : Requester
  clock : LeaseClock
  sync : SyncDiscipline
  lines : Vector GuardLine 16
  clients : Vector ClientInterface 8
  management : ManagementInterface
  nReset : Bool
  pending : List Instr
deriving DecidableEq, Repr

/-- No reason: the part has no fault, and no meaning of this model ends in one. -/
inductive Fault
deriving DecidableEq, Repr

/-- Why a step can be refused. -/
inductive Refusal
  /-- A command that has no meaning yet; raised only by a refused arm of exec (there is none), safe. -/
  | notModelled (mnemonic : String)
deriving DecidableEq, Repr

/-- All indices in ascending order. -/
def allIndices : List Index := (List.range 512).map (Fin.ofNat 512)

/-- All client ports in ascending order. -/
def allPorts : List Port := [0, 1, 2, 3, 4, 5, 6, 7]

/-- Flags of which none is set (R118). -/
def NoticeFlags.none : NoticeFlags := ⟨false, false, false, false⟩

/-- An exchange after device reset (R170). -/
def Exchange.reset : Exchange := ⟨.idle, none, none, none⟩

/-- A link with no transaction under way. DESIGN CHOICE, log entry 1. -/
def LinkState.reset : LinkState := ⟨none, []⟩

/-- A client interface after device reset, its reset line low (R170; the line's level is DESIGN CHOICE, log entry 1). -/
def ClientInterface.reset : ClientInterface := ⟨.offline, 0, Exchange.reset, false, false, LinkState.reset⟩

/-- The alert set after device reset (R135). -/
def AlertSet.reset : AlertSet := ⟨false, none, false, false, Vector.replicate 8 false⟩

/-- The Lease Clock after device reset (R151). -/
def LeaseClock.reset : LeaseClock := ⟨.stopped, false, 0, Config.resetDivisor, 0, 0, 0, ⟨0, 0, false⟩⟩

/-- The Sync Discipline after device reset (R151). -/
def SyncDiscipline.reset : SyncDiscipline := ⟨.off, none, 0, 0, none⟩

/-- The part right after device reset has ended, with an empty queue: the values R183 gathers. The levels of the inputs
(nRESET high, every reset line low, no transaction under way) are DESIGN CHOICE, log entry 1. -/
def State.reset : State where
  records := Vector.replicate 512 ⟨0, none⟩
  freePool := allIndices
  closedOrder := []
  ports := Vector.replicate 8 ⟨Config.resetQuota, 0, 0, 0, 0⟩
  directory := []
  deadlines := []
  offer := none
  arbiter := .expiryUnit
  clock := LeaseClock.reset
  sync := SyncDiscipline.reset
  lines := Vector.replicate 16 ⟨.unbound, 0⟩
  clients := Vector.replicate 8 ClientInterface.reset
  management := ⟨Exchange.reset, none, AlertSet.reset, LinkState.reset⟩
  nReset := true
  pending := []

end Sys2Proof.Machine
end

