-- ==== Sys2Proof/Machine/Frames.lean ====
section
/-!
DEFINITION. Frames on the links as bytes (Chapter 11): little-endian numbers, the CRC, the codes of the tables, the
handle encoding, the length and CRC checks of a request frame, and the bytes of a response frame.
-/
namespace Sys2Proof.Machine

/-- The `k` bytes of `n`, low byte first (R184). -/
def leBytes : Nat → Nat → List Byte
  | 0, _ => []
  | k + 1, n => BitVec.ofNat 8 (n % 256) :: leBytes k (n / 256)

/-- The number that bytes spell, low byte first (R184). -/
def leNat : List Byte → Nat
  | [] => 0
  | b :: bs => b.toNat + 256 * leNat bs

/-- The number in the `len` bytes at `offset` of a body. -/
def field (body : List Byte) (offset len : Nat) : Nat := leNat ((body.drop offset).take len)

/-- The byte at `offset` of a body; 0 where the body has none. -/
def byteAt (body : List Byte) (offset : Nat) : Byte := body.getD offset 0

/-- Bit `k` of a byte, counted from the least significant (Table 11-6). -/
def bitOf (b : Byte) (k : Nat) : Bool := b.getLsbD k

/-- A boolean byte (Table 11-6). -/
def boolByte (b : Bool) : Byte := if b then 1 else 0

/-- The number whose bit k is the k-th of the list. -/
def bitsNat : List Bool → Nat
  | [] => 0
  | b :: bs => b.toNat + 2 * bitsNat bs

/-- The byte whose bit k is the k-th of `bits` (Table 11-6). -/
def bitsByte (bits : List Bool) : Byte := BitVec.ofNat 8 (bitsNat bits)

/-- A number of one byte. -/
def byteOf (n : Nat) : Byte := BitVec.ofNat 8 n

/-- The 16-bit two's complement bytes of a trim (R184). -/
def trimBytes (t : Int) : List Byte := leBytes 2 (BitVec.ofInt 16 t).toNat

/-- The trim that two bytes spell in two's complement (R184). -/
def trimOf (n : Nat) : Int := (BitVec.ofNat 16 n).toInt

/-- The 16-bit encoding of a handle: bits 0 to 8 the index, bits 9 to 15 the tag (section 11.3). -/
def Handle.encode (h : Handle) : Nat := h.index.val + 512 * h.tag.val

/-- The handle of a 16-bit value (section 11.3). -/
def Handle.decode (n : Nat) : Handle := ⟨Fin.ofNat 512 (n % 512), Fin.ofNat 128 (n / 512)⟩

/-- One bit of the CRC: shift left, and add the polynomial 0x1021 where a 1 falls out (R186). -/
def crcBit (r : BitVec 16) : BitVec 16 := if r.getLsbD 15 then (r <<< 1) ^^^ 0x1021#16 else r <<< 1

/-- `k` bits of the CRC (R186). -/
def crcBits : Nat → BitVec 16 → BitVec 16
  | 0, r => r
  | k + 1, r => crcBits k (crcBit r)

/-- The CRC of the bytes after the register `r`, each byte most significant bit first (R186). -/
def crcFrom : BitVec 16 → List Byte → BitVec 16
  | r, [] => r
  | r, b :: bs => crcFrom (crcBits 8 (r ^^^ (b.zeroExtend 16 <<< 8))) bs

/-- CRC-16 with polynomial 0x1021 and initial value 0xFFFF (R186). -/
def crc16 (bytes : List Byte) : BitVec 16 := crcFrom 0xFFFF#16 bytes

/-- The code of a status (Table 11-5). -/
def Status.code : Status → Byte
  | .ok => 0x00
  | .granted => 0x01
  | .queued => 0x02
  | .renewed => 0x03
  | .renewedLate => 0x04
  | .released => 0x05
  | .upgraded => 0x06
  | .upgradePending => 0x07
  | .downgraded => 0x08
  | .opened => 0x09
  | .sessionActive => 0x0A
  | .left => 0x0B
  | .heldAt => 0x0C
  | .currentExclusive => 0x0D
  | .currentShared => 0x0E
  | .superseded => 0x0F
  | .unissued => 0x10
  | .frameError => 0x20
  | .offline => 0x21
  | .staleSession => 0x22
  | .unknownKind => 0x30
  | .notPermitted => 0x31
  | .badArgument => 0x32
  | .clockStopped => 0x33
  | .clockRunning => 0x34
  | .wrongState => 0x35
  | .noResource => 0x36
  | .modeRefused => 0x37
  | .already => 0x38
  | .quota => 0x39
  | .exhausted => 0x3A
  | .conflict => 0x3B
  | .queueFull => 0x3C
  | .tableFull => 0x3D
  | .badHandle => 0x3E
  | .notHeld => 0x3F
  | .closedAlready => 0x40
  | .notLive => 0x41
  | .exists_ => 0x42
  | .directoryFull => 0x43
  | .guardInUse => 0x44
  | .inUse => 0x45

/-- The code of a mode (Table 11-6). -/
def Mode.code : Mode → Byte
  | .shared => 0
  | .exclusive => 1

/-- The code of a close reason (Table 11-6). -/
def CloseReason.code : CloseReason → Byte
  | .lapsed => 1
  | .waitExpired => 2
  | .revoked => 3
  | .retired => 4

/-- The code of the state of a record that is not FREE (Table 11-6). -/
def LeasePhase.code : LeasePhase → Byte
  | .waiting _ => 1
  | .held _ _ _ => 2
  | .grace _ _ => 3
  | .closed _ _ => 4

/-- The code of an entry state (Table 11-6). -/
def EntryState.code : EntryState → Byte
  | .vacant => 1
  | .shared => 2
  | .exclusive => 3

/-- The code of a clock state (Table 11-6). -/
def ClockState.code : ClockState → Byte
  | .stopped => 0
  | .running => 1
  | .held => 2

/-- The code of a discipline state (Table 11-6). -/
def DisciplineState.code : DisciplineState → Byte
  | .off => 0
  | .acquiring => 1
  | .tracking => 2
  | .holdover => 3

/-- The code of a guard line state (Table 11-6). -/
def LineState.code : LineState → Byte
  | .unbound => 0
  | .clear _ => 1
  | .gapWait _ _ => 2
  | .asserted _ => 3

/-- The code of a session state (Table 11-6). -/
def Session.code : Session → Byte
  | .offline => 0
  | .online => 1
  | .inReset => 2

/-- The code of an exchange state (Table 11-6). -/
def ExchangeState.code : ExchangeState → Byte
  | .idle => 0
  | .pending => 1
  | .ready => 2
  | .collected => 3

/-- The byte of a set of notice flags (Table 11-6). -/
def NoticeFlags.code (f : NoticeFlags) : Byte := bitsByte [f.granted, f.upgraded, f.warning, f.closed]

/-- The notice flags that the low four bits of a byte name (Table 11-6). -/
def NoticeFlags.decode (b : Byte) : NoticeFlags := ⟨bitOf b 0, bitOf b 1, bitOf b 2, bitOf b 3⟩

/-- The request kinds (Table 11-4). -/
inductive Kind
  | openSession | leave | claim | renew | release | upgrade | downgrade | leaseStatus | fetchNotices | acknowledge
  | query | validate | declare | amend | retire | revoke | setQuota | portReset | clearAll | clockSetup | clockStart
  | clockHold | clockResume | discipline | deviceStatus | portStatus | ackAlerts
deriving DecidableEq, Repr

/-- The code of a request kind (Table 11-4). -/
def Kind.code : Kind → Byte
  | .openSession => 0x01
  | .leave => 0x02
  | .claim => 0x03
  | .renew => 0x04
  | .release => 0x05
  | .upgrade => 0x06
  | .downgrade => 0x07
  | .leaseStatus => 0x08
  | .fetchNotices => 0x09
  | .acknowledge => 0x0A
  | .query => 0x0B
  | .validate => 0x0C
  | .declare => 0x40
  | .amend => 0x41
  | .retire => 0x42
  | .revoke => 0x43
  | .setQuota => 0x44
  | .portReset => 0x45
  | .clearAll => 0x46
  | .clockSetup => 0x47
  | .clockStart => 0x48
  | .clockHold => 0x49
  | .clockResume => 0x4A
  | .discipline => 0x4B
  | .deviceStatus => 0x4C
  | .portStatus => 0x4D
  | .ackAlerts => 0x4E

/-- Every request kind, in the order of Table 11-4. -/
def Kind.all : List Kind :=
  [.openSession, .leave, .claim, .renew, .release, .upgrade, .downgrade, .leaseStatus, .fetchNotices, .acknowledge,
   .query, .validate, .declare, .amend, .retire, .revoke, .setQuota, .portReset, .clearAll, .clockSetup, .clockStart,
   .clockHold, .clockResume, .discipline, .deviceStatus, .portStatus, .ackAlerts]

/-- The kind that a code names, if any (Table 11-4). -/
def Kind.ofCode (b : Byte) : Option Kind := Kind.all.find? (fun k => k.code == b)

/-- Whether a kind may be sent from a client port (R167). -/
def Kind.fromClient : Kind → Bool
  | .openSession | .leave | .claim | .renew | .release | .upgrade | .downgrade | .fetchNotices | .acknowledge => true
  | .leaseStatus | .query | .validate => true
  | .declare | .amend | .retire | .revoke | .setQuota | .portReset | .clearAll => false
  | .clockSetup | .clockStart | .clockHold | .clockResume | .discipline => false
  | .deviceStatus | .portStatus | .ackAlerts => false

/-- Whether a kind may be sent from the management port (R167). -/
def Kind.fromManagement : Kind → Bool
  | .openSession | .leave | .claim | .renew | .release | .upgrade | .downgrade | .fetchNotices | .acknowledge => false
  | .leaseStatus | .query | .validate => true
  | .declare | .amend | .retire | .revoke | .setQuota | .portReset | .clearAll => true
  | .clockSetup | .clockStart | .clockHold | .clockResume | .discipline => true
  | .deviceStatus | .portStatus | .ackAlerts => true

/-- Whether the interface `l` may send the kind (R167). -/
def Kind.permitted (k : Kind) : Link → Bool
  | .client _ => k.fromClient
  | .management => k.fromManagement

/-- Whether a body suits the kind by its length (Table 11-7, R187). An ACKNOWLEDGE of n entries has 1 + 3n bytes, n
from 1 to 8. -/
def Kind.bodyFits (k : Kind) (body : List Byte) : Bool :=
  match k with
  | .openSession | .leave | .clearAll | .clockStart | .clockHold | .clockResume | .deviceStatus => body.length == 0
  | .claim => body.length == 17
  | .renew => body.length == 7
  | .release | .downgrade | .leaseStatus | .revoke => body.length == 2
  | .upgrade => body.length == 3
  | .fetchNotices => body.length == 2
  | .acknowledge =>
    let n := (byteAt body 0).toNat
    decide (1 ≤ n) && decide (n ≤ 8) && body.length == 1 + 3 * n
  | .query | .retire => body.length == 2
  | .validate => body.length == 6
  | .declare => body.length == 22
  | .amend => body.length == 20
  | .setQuota => body.length == 3
  | .portReset | .portStatus => body.length == 1
  | .clockSetup => body.length == 4
  | .discipline => body.length == 1
  | .ackAlerts => body.length == 1

/-- The reasons of a FRAME_ERROR (Table 11-6). -/
inductive FrameReason
  | length
  | crc
deriving DecidableEq, Repr

/-- The code of a FRAME_ERROR reason (Table 11-6). -/
def FrameReason.code : FrameReason → Byte
  | .length => 1
  | .crc => 2

/-- The length check of the bytes of a SUBMIT, all of them counted (R185). -/
def lengthFits (bytes : List Byte) : Bool :=
  let l := (byteAt bytes 3).toNat
  decide (6 ≤ bytes.length) && decide (l ≤ 64) && bytes.length == 6 + l

/-- The frame that bytes of the right length spell (Table 11-2). -/
def Frame.ofBytes (bytes : List Byte) : Frame where
  kind := byteAt bytes 0
  epoch := byteAt bytes 1
  requestId := byteAt bytes 2
  body := (bytes.drop 4).take (byteAt bytes 3).toNat
  crc := BitVec.ofNat 16 (field bytes (4 + (byteAt bytes 3).toNat) 2)

/-- The CRC over the header and body of a request frame (R186). -/
def Frame.computedCrc (bytes : List Byte) : BitVec 16 := crc16 (bytes.take (4 + (byteAt bytes 3).toNat))

/-- Check 1 of R156: the length check first, then the CRC check (R185, R186). Only 70 bytes are stored. -/
def checkFrame (bytes : List Byte) : Except FrameReason Frame :=
  let stored := bytes.take Config.storedFrameBytes
  if lengthFits bytes then
    let f := Frame.ofBytes stored
    if f.crc = Frame.computedCrc stored then .ok f else .error .crc
  else .error .length

/-- The header and body of a response frame (Table 11-3). -/
def Response.headerAndBody (r : Response) : List Byte :=
  [r.status.code, r.kind, r.epoch, r.requestId] ++ leBytes 6 r.now ++ [byteOf r.lapsed] ++ leBytes 2 r.notices
    ++ [byteOf r.body.length] ++ r.body

/-- The bytes of a response frame, its CRC appended low byte first (Table 11-3, R186). -/
def Response.encode (r : Response) : List Byte :=
  r.headerAndBody ++ leBytes 2 (crc16 r.headerAndBody).toNat

end Sys2Proof.Machine
end

