-- ==== Sys2Proof/Machine/Flags.lean ====
section
/-!
DEFINITION. Notice flags as a set (R118), the alert set and its postings (R130), and the outputs that are computed from
the state: the client attention outputs (R128), MATTN (R133) and the guard outputs (R111).
-/
namespace Sys2Proof.Machine

/-- Whether at least one flag is set (R121). -/
def NoticeFlags.any (f : NoticeFlags) : Bool := f.granted || f.upgraded || f.warning || f.closed

/-- The flags set in both (R126, step 2). -/
def NoticeFlags.inter (f g : NoticeFlags) : NoticeFlags :=
  ⟨f.granted && g.granted, f.upgraded && g.upgraded, f.warning && g.warning, f.closed && g.closed⟩

/-- The flags of `f` without those of `g` (R126, step 3). -/
def NoticeFlags.minus (f g : NoticeFlags) : NoticeFlags :=
  ⟨f.granted && !g.granted, f.upgraded && !g.upgraded, f.warning && !g.warning, f.closed && !g.closed⟩

/-- The alert set becomes `a`. -/
def State.setAlerts (a : AlertSet) (s : State) : State := { s with management := { s.management with alerts := a } }

/-- TABLE_PRESSURE is posted (R130). -/
def State.postTablePressure (s : State) : State := s.setAlerts { s.management.alerts with tablePressure := true }

/-- TOKEN_LIMIT is posted with a resource id, which replaces an earlier one (R107, R130). -/
def State.postTokenLimit (resource : Nat) (s : State) : State :=
  s.setAlerts { s.management.alerts with tokenLimit := some resource }

/-- SYNC_LOST is posted (R130, R149). -/
def State.postSyncLost (s : State) : State := s.setAlerts { s.management.alerts with syncLost := true }

/-- SYNC_ACQUIRED is posted (R130, R148). -/
def State.postSyncAcquired (s : State) : State := s.setAlerts { s.management.alerts with syncAcquired := true }

/-- Port `p` is added to the set of ports of PORT_RESET (R130). -/
def State.postPortReset (p : Port) (s : State) : State :=
  s.setAlerts { s.management.alerts with portReset := s.management.alerts.portReset.set p true }

/-- PORT_RESET is set while its set of ports is not empty (R130). -/
def AlertSet.portResetSet (a : AlertSet) : Bool := a.portReset.toList.any (fun b => b)

/-- The five alert flags, in the order of their bits in Table 11-6. -/
def AlertSet.flags (a : AlertSet) : List Bool :=
  [a.tablePressure, a.tokenLimit.isSome, a.syncLost, a.syncAcquired, a.portResetSet]

/-- The alert set holds at least one set alert (R133). -/
def AlertSet.any (a : AlertSet) : Bool := a.flags.any (fun b => b)

/-- The alert set after the alerts of a selection byte are cleared; TOKEN_LIMIT loses its id and PORT_RESET its ports
(R131). Bits above bit 4 name no alert and are ignored (R188). -/
def AlertSet.clear (selection : Byte) (a : AlertSet) : AlertSet where
  tablePressure := a.tablePressure && !bitOf selection 0
  tokenLimit := if bitOf selection 1 then none else a.tokenLimit
  syncLost := a.syncLost && !bitOf selection 2
  syncAcquired := a.syncAcquired && !bitOf selection 3
  portReset := if bitOf selection 4 then Vector.replicate 8 false else a.portReset

/-- The alert block of DEVICE-STATUS and ACK-ALERTS (section 11.5); the resource id is 0 while TOKEN_LIMIT is clear
(R188). -/
def AlertSet.block (a : AlertSet) : List Byte :=
  [bitsByte a.flags] ++ leBytes 2 (a.tokenLimit.getD 0) ++ [bitsByte a.portReset.toList]

/-- The level of Pn_ATTN (R128, R129). -/
def State.attention (s : State) (p : Port) : Bool :=
  let c := s.clients[p]
  c.exchange.state == .ready
    || (c.session == .online && (decide (0 < s.ports[p].notices) || decide (0 < s.ports[p].lapsed)))

/-- The level of MATTN (R133). -/
def State.managementAttention (s : State) : Bool :=
  s.management.exchange.state == .ready || s.management.alerts.any

/-- The level a line drives: high while ASSERTED (R111). -/
def LineState.output : LineState → Bool
  | .asserted _ => true
  | .unbound => false
  | .clear _ => false
  | .gapWait _ _ => false

/-- The level of GDn (R111). -/
def State.guardOutput (s : State) (n : LineNo) : Bool := s.lines[n].state.output

end Sys2Proof.Machine
end

