-- ==== Sys2Proof/Machine/Ops.lean ====
section
/-!
DEFINITION. The operations that the meanings share: the one write of the Lease Store, entries and their lists, reports to
the Guard Output Unit, promotion, closing and freeing, and the accessors of ports, lines and interfaces.
-/
namespace Sys2Proof.Machine

/-- A count plus a number of ticks, held at the largest count (R138). -/
def satAdd (a b : Nat) : Nat := min (a + b) Config.maxCount

/-- The lease-clock count, which an item reads once; no item changes it (R51, R138). -/
def State.now (s : State) : Nat := s.clock.count

/-! Leases and their phases. -/

/-- The deadline of a lease that has one (R87). -/
def LeasePhase.deadline : LeasePhase → Option Nat
  | .waiting d => d
  | .held _ d _ => some d
  | .grace _ d => some d
  | .closed _ _ => none

/-- The token and granted-at time of a lease that carries them (Table 1-2). -/
def LeasePhase.grant : LeasePhase → Option Grant
  | .waiting _ => none
  | .held g _ _ => some g
  | .grace g _ => some g
  | .closed g _ => g

/-- The close reason of a CLOSED record (Table 1-2). -/
def LeasePhase.reason : LeasePhase → Option CloseReason
  | .waiting _ => none
  | .held _ _ _ => none
  | .grace _ _ => none
  | .closed _ r => some r

/-- The upgrade-pending flag; clear in every state but HELD (Table 1-2). -/
def LeasePhase.upgradePending : LeasePhase → Bool
  | .waiting _ => false
  | .held _ _ u => u
  | .grace _ _ => false
  | .closed _ _ => false

/-- HELD or GRACE (section 5 of 00_scope.md, "holder"). -/
def LeasePhase.isHolder : LeasePhase → Bool
  | .waiting _ => false
  | .held _ _ _ => true
  | .grace _ _ => true
  | .closed _ _ => false

/-- CLOSED. -/
def LeasePhase.isClosed : LeasePhase → Bool
  | .waiting _ => false
  | .held _ _ _ => false
  | .grace _ _ => false
  | .closed _ _ => true

/-- WAITING, HELD or GRACE (R5). -/
def LeasePhase.isLive (ph : LeasePhase) : Bool := !ph.isClosed

/-- GRACE. -/
def LeasePhase.isGrace : LeasePhase → Bool
  | .waiting _ => false
  | .held _ _ _ => false
  | .grace _ _ => true
  | .closed _ _ => false

/-- The lease in the record of an index; none if the record is FREE. -/
def State.lease (s : State) (i : Index) : Option Lease := s.records[i].lease

/-- The handle of a record: its index and the tag it carries (R3). -/
def State.handle (s : State) (i : Index) : Handle := ⟨i, s.records[i].tag⟩

/-- The lease that a handle in a request from interface `l` resolves to (R4). -/
def State.resolve (s : State) (l : Link) (h : Handle) : Option Lease :=
  if s.records[h.index].tag = h.tag then
    match s.lease h.index with
    | none => none
    | some x =>
      match l with
      | .management => some x
      | .client p => if x.port = p then some x else none
  else none

/-! The deadline list (R86). -/

/-- Order of deadline and then index (R86). -/
def DeadlineItem.before (a b : DeadlineItem) : Bool :=
  decide (a.deadline < b.deadline) || (a.deadline == b.deadline && decide (a.index < b.index))

/-- The list with an item at the place its deadline and index give it (R88). -/
def insertDeadline (x : DeadlineItem) : List DeadlineItem → List DeadlineItem
  | [] => [x]
  | y :: ys => if x.before y then x :: y :: ys else y :: insertDeadline x ys

/-- The list without the item of a record (R90). -/
def removeDeadline (i : Index) (l : List DeadlineItem) : List DeadlineItem := l.filter (fun x => x.index != i)

/-- The deadline list after record `i` becomes `new`: inserted, moved or removed with its deadline (R86 to R90). -/
def refileDeadline (i : Index) (new : Option Lease) (l : List DeadlineItem) : List DeadlineItem :=
  match new.bind (fun x => x.phase.deadline) with
  | some d => insertDeadline ⟨d, i⟩ (removeDeadline i l)
  | none => removeDeadline i l

/-! The counts of a port, the free pool and the closed order follow the records. -/

/-- 1 if the lease is live, else 0 (R15). -/
def Lease.liveOne (l : Lease) : Nat := if l.phase.isLive then 1 else 0

/-- 1 if the lease is CLOSED, else 0 (R17). -/
def Lease.closedOne (l : Lease) : Nat := if l.phase.isClosed then 1 else 0

/-- 1 if a notice flag of the lease is set, else 0 (R121). -/
def Lease.noticeOne (l : Lease) : Nat := if l.flags.any then 1 else 0

/-- The context of the port that gains a lease (R15, R17, R121). -/
def PortContext.gain (l : Lease) (c : PortContext) : PortContext :=
  { c with live := c.live + l.liveOne, closed := c.closed + l.closedOne, notices := c.notices + l.noticeOne }

/-- The context of the port that loses a lease (R15, R17, R121). -/
def PortContext.lose (l : Lease) (c : PortContext) : PortContext :=
  { c with live := c.live - l.liveOne, closed := c.closed - l.closedOne, notices := c.notices - l.noticeOne }

/-- The port contexts after a lease `old` is replaced by `new` in one record (R15, R17, R121). -/
def recount (old new : Option Lease) (ports : Vector PortContext 8) : Vector PortContext 8 :=
  let gained :=
    match new with
    | some l => ports.set l.port (ports[l.port].gain l)
    | none => ports
  match old with
  | some l => gained.set l.port (gained[l.port].lose l)
  | none => gained

/-- The free pool after record `i` changes from `old` to `new`: an allocated index leaves it, a freed index joins its
tail (R6, R7, R9). -/
def refilePool (i : Index) (old new : Option Lease) (pool : List Index) : List Index :=
  match old, new with
  | none, some _ => pool.erase i
  | some _, none => pool ++ [i]
  | none, none => pool
  | some _, some _ => pool

/-- Whether there is a lease and it is CLOSED. -/
def leaseClosed : Option Lease → Bool
  | some l => l.phase.isClosed
  | none => false

/-- The closed order after record `i` changes from `old` to `new`: it joins the tail when it closes and leaves when it is
freed (R10). -/
def refileClosed (i : Index) (old new : Option Lease) (order : List Index) : List Index :=
  match leaseClosed old, leaseClosed new with
  | false, true => order ++ [i]
  | true, false => order.erase i
  | false, false => order
  | true, true => order

/-- The tag after record `i` changes from `old` to `new`: it advances, modulo 128, when the record is freed (R1, R7). -/
def retag (old new : Option Lease) (t : Tag) : Tag :=
  match old, new with
  | some _, none => t + 1
  | none, none => t
  | none, some _ => t
  | some _, some _ => t

/-- THE ONE WRITE OF THE LEASE STORE. Record `i` becomes `new`, and with it, in the same item, its tag, the free pool,
the closed order, the deadline list and the counts of the ports concerned (R7, R9, R10, R15, R17, R86, R121; log
entry 14). -/
def State.putLease (i : Index) (new : Option Lease) (s : State) : State :=
  { s with
    records := s.records.set i ⟨retag s.records[i].lease new s.records[i].tag, new⟩
    freePool := refilePool i s.records[i].lease new s.freePool
    closedOrder := refileClosed i s.records[i].lease new s.closedOrder
    deadlines := refileDeadline i new s.deadlines
    ports := recount s.records[i].lease new s.ports }

/-- The context of port `p` is changed. -/
def State.modifyPort (p : Port) (f : PortContext → PortContext) (s : State) : State :=
  { s with ports := s.ports.set p (f s.ports[p]) }

/-- The records with their indices, in ascending order (R1). -/
def State.indexed (s : State) : List (Index × LeaseRecord) := allIndices.zip s.records.toList

/-- The indices, in ascending order, of the records whose lease, if they have one, satisfies `q`. -/
def State.select (s : State) (q : Option Lease → Bool) : List Index :=
  (s.indexed.filter (fun x => q x.2.lease)).map Prod.fst

/-- The records that port `p` owns, in ascending order of index (R8). -/
def State.ownedBy (s : State) (p : Port) : List Index := s.select (fun x => x.any (fun l => l.port == p))

/-- The live record of port `p` on a resource, if there is one (R48). -/
def State.liveOn (s : State) (p : Port) (resource : Nat) : Option Index :=
  (s.select (fun x => x.any (fun l => l.port == p && l.resource == resource && l.phase.isLive))).head?

/-! The Resource Directory. -/

/-- The declared entry of a resource id, if there is one (R27). -/
def State.entry (s : State) (resource : Nat) : Option Entry := s.directory.find? (fun e => e.resource == resource)

/-- The entry of a resource id is changed. -/
def State.modifyEntry (resource : Nat) (f : Entry → Entry) (s : State) : State :=
  { s with directory := s.directory.map (fun e => if e.resource = resource then f e else e) }

/-- The entry without a handle in its holder list and wait queue; the others keep their order (R25, R55). -/
def Entry.without (h : Handle) (e : Entry) : Entry :=
  { e with
    holders := e.holders.filter (fun x => x != h)
    upgrade := if e.upgrade = some h then none else e.upgrade
    waiters := e.waiters.filter (fun x => x != h) }

/-- Whether a WAITING claim is the head of the wait queue (R52). -/
def Entry.isHead (h : Handle) (e : Entry) : Bool := e.upgrade.isNone && e.waiters.head? == some h

/-- Whether the entry's holders leave room for a claim of a mode (R45, R59, R60). -/
def Entry.hasRoom (m : Mode) (e : Entry) : Bool :=
  match m with
  | .exclusive => e.state == .vacant
  | .shared => e.state == .vacant || (e.state == .shared && decide (e.holders.length < e.settings.maxSharers))

/-- Whether a claim of a mode is grantable now: nobody waits and there is room (R45). -/
def Entry.grantable (m : Mode) (e : Entry) : Bool := e.upgrade.isNone && e.waiters.isEmpty && e.hasRoom m

/-- The entry state that a holder list fixes (R24). -/
def State.holdingState (s : State) (holders : List Handle) : EntryState :=
  match holders with
  | [] => .vacant
  | h :: _ =>
    match s.lease h.index with
    | some l =>
      match l.mode with
      | .exclusive => .exclusive
      | .shared => .shared
    | none => .shared

/-! The Guard Output Unit. -/

/-- An exclusive begin at `now` reaches a line: asserted if the gap has passed, else GAP_WAIT (R113; the held sum is DEDUCED,
log entry 21). -/
def GuardLine.exclusiveBegin (gap now : Nat) (g : GuardLine) : GuardLine :=
  match g.state with
  | .clear r =>
    if satAdd g.lastDeassertedAt gap ≤ now then { g with state := .asserted r }
    else { g with state := .gapWait r (satAdd g.lastDeassertedAt gap) }
  | .unbound => g
  | .gapWait _ _ => g
  | .asserted _ => g

/-- An exclusive end at `now` reaches a line (R114). -/
def GuardLine.exclusiveEnd (now : Nat) (g : GuardLine) : GuardLine :=
  match g.state with
  | .asserted r => ⟨.clear r, now⟩
  | .gapWait r _ => { g with state := .clear r }
  | .unbound => g
  | .clear _ => g

/-- A line is bound to a resource: CLEAR, output low (R112). -/
def GuardLine.bind (resource : Nat) (g : GuardLine) : GuardLine := { g with state := .clear resource }

/-- A line is unbound at `now`, from whatever state it is in (R112). -/
def GuardLine.unbind (now : Nat) (g : GuardLine) : GuardLine :=
  match g.state with
  | .asserted _ => ⟨.unbound, now⟩
  | .unbound => { g with state := .unbound }
  | .clear _ => { g with state := .unbound }
  | .gapWait _ _ => { g with state := .unbound }

/-- A line compares its assert at with the count (R115). -/
def GuardLine.compare (count : Nat) (g : GuardLine) : GuardLine :=
  match g.state with
  | .gapWait r a => if a ≤ count then { g with state := .asserted r } else g
  | .unbound => g
  | .clear _ => g
  | .asserted _ => g

/-- A line at CLEAR-ALL at `now`: a bound line becomes CLEAR and restarts its gap (R117). -/
def GuardLine.clearAll (now : Nat) (g : GuardLine) : GuardLine :=
  match g.state with
  | .unbound => g
  | .clear r => ⟨.clear r, now⟩
  | .gapWait r _ => ⟨.clear r, now⟩
  | .asserted r => ⟨.clear r, now⟩

/-- Line `n` is changed. -/
def State.modifyLine (n : LineNo) (f : GuardLine → GuardLine) (s : State) : State :=
  { s with lines := s.lines.set n (f s.lines[n]) }

/-- The line bound to an entry, if there is one, is changed; a report for an entry without a line acts on none (R26,
R111). -/
def State.modifyLineOf (e : Entry) (f : GuardLine → GuardLine) (s : State) : State :=
  match e.settings.guardLine with
  | some n => s.modifyLine n f
  | none => s

/-- The entry's state is re-established from its holder list, and the Guard Output Unit is told when the entry enters or
leaves EXCLUSIVE (R24, R26; log entry 16). -/
def State.restate (resource : Nat) (s : State) : State :=
  match s.entry resource with
  | none => s
  | some e =>
    let new := s.holdingState e.holders
    let s1 := s.modifyEntry resource (fun x => { x with state := new })
    if e.state = .exclusive ∧ new ≠ .exclusive then
      s1.modifyLineOf e (GuardLine.exclusiveEnd s.now)
    else if e.state ≠ .exclusive ∧ new = .exclusive then
      s1.modifyLineOf e (GuardLine.exclusiveBegin e.settings.guardGap s.now)
    else s1

/-! Promotion (R57 to R63). -/

/-- Promotion grants the WAITING head of the queue (R62). -/
def State.grantHead (resource : Nat) (h : Handle) (l : Lease) (token : Nat) (s : State) : State :=
  ((s.modifyEntry resource (fun e =>
      { e with counter := token, waiters := e.waiters.tail, holders := e.holders ++ [h] })).putLease h.index
    (some { l with
      phase := .held ⟨token, s.now⟩ (satAdd s.now l.term) false
      flags := { l.flags with granted := true } })).restate resource

/-- The upgrade of the lone holder is made: new token, EXCLUSIVE, granted at now; the deadline stays (R58, R75). `told`
says that the UPGRADED notice is to be set, because no response carries the change (R119). -/
def State.makeExclusive (resource : Nat) (h : Handle) (l : Lease) (deadline token : Nat) (told : Bool) (s : State) :
    State :=
  ((s.modifyEntry resource (fun e =>
      { e with counter := token, upgrade := if e.upgrade = some h then none else e.upgrade })).putLease h.index
    (some { l with
      mode := .exclusive
      phase := .held ⟨token, s.now⟩ deadline false
      flags := { l.flags with upgraded := l.flags.upgraded || told } })).restate resource

/-- Promotion of WAITING claims from the head, at most `fuel` of them: each is granted while there is room and a token,
and the test is repeated (R59 to R61). -/
def State.promoteWaiters (resource : Nat) : Nat → State → State
  | 0, s => s
  | fuel + 1, s =>
    match s.entry resource with
    | none => s
    | some e =>
      match e.waiters with
      | [] => s
      | h :: _ =>
        match s.lease h.index with
        | none => s
        | some l =>
          match l.phase with
          | .waiting _ =>
            if e.hasRoom l.mode then
              if e.counter < Config.tokenLimit then
                State.promoteWaiters resource fuel (s.grantHead resource h l (e.counter + 1))
              else s.postTokenLimit resource
            else s
          | .held _ _ _ => s
          | .grace _ _ => s
          | .closed _ _ => s

/-- Promotion completes the pending upgrade at the head if the upgrader is the only holder (R58, R61). -/
def State.promoteUpgrade (resource : Nat) (h : Handle) (e : Entry) (s : State) : State :=
  if e.holders = [h] then
    match s.lease h.index with
    | none => s
    | some l =>
      match l.phase with
      | .held _ d _ =>
        if e.counter < Config.tokenLimit then s.makeExclusive resource h l d (e.counter + 1) true
        else s.postTokenLimit resource
      | .waiting _ => s
      | .grace _ _ => s
      | .closed _ _ => s
  else s

/-- Promotion runs on a resource (R57). -/
def State.promote (resource : Nat) (s : State) : State :=
  match s.entry resource with
  | none => s
  | some e =>
    match e.upgrade with
    | some h => s.promoteUpgrade resource h e
    | none => s.promoteWaiters resource e.waiters.length

/-! Freeing and closing. -/

/-- A record is freed (R7): a live one leaves the holder list or the wait queue of its resource, whose state is
re-established and whose exclusive end is reported. Promotion is the cause's. -/
def State.freeRecord (i : Index) (l : Lease) (s : State) : State :=
  if l.phase.isLive then
    ((s.modifyEntry l.resource (Entry.without (s.handle i))).putLease i none).restate l.resource
  else s.putLease i none

/-- A record is freed with its port, and promotion runs on its resource if it was live (R8, R42). -/
def State.freeWithPort (s : State) (i : Index) : State :=
  match s.lease i with
  | none => s
  | some l => if l.phase.isLive then (s.freeRecord i l).promote l.resource else s.freeRecord i l

/-- Every record of port `p` is freed, in ascending order of index, each with its promotion (R8, R42; DEDUCED, log entry
17). -/
def State.freeAllOf (p : Port) (s : State) : State := (s.ownedBy p).foldl State.freeWithPort s

/-- A lease as it stands once closed (R11). -/
def Lease.close (reason : CloseReason) (l : Lease) : Lease :=
  { l with phase := .closed l.phase.grant reason, flags := { l.flags with closed := true } }

/-- Steps 1 to 5 of closing: the record becomes CLOSED and leaves the lists of its resource and the deadline list (R97). -/
def State.closeOnly (i : Index) (l : Lease) (reason : CloseReason) (s : State) : State :=
  (s.modifyEntry l.resource (Entry.without (s.handle i))).putLease i (some (l.close reason))

/-- Whether promotion follows when a record leaves: it was a holder or the head of the queue (R57). -/
def State.leavesGap (i : Index) (l : Lease) (s : State) : Bool :=
  l.phase.isHolder ||
    match s.entry l.resource with
    | some e => e.isHead (s.handle i)
    | none => false

/-- A live record closes, with exclusive end and promotion where they follow (R97). -/
def State.closeRecord (i : Index) (l : Lease) (reason : CloseReason) (s : State) : State :=
  if s.leavesGap i l then ((s.closeOnly i l reason).restate l.resource).promote l.resource
  else (s.closeOnly i l reason).restate l.resource

/-- A live record is released by its owner: freed, with promotion if it was a holder or the head (R64, R72). -/
def State.releaseRecord (i : Index) (l : Lease) (s : State) : State :=
  if s.leavesGap i l then (s.freeRecord i l).promote l.resource else s.freeRecord i l

/-! Interfaces. -/

/-- Client interface `p` is changed. -/
def State.modifyClient (p : Port) (f : ClientInterface → ClientInterface) (s : State) : State :=
  { s with clients := s.clients.set p (f s.clients[p]) }

/-- The exchange of an interface (R155). -/
def State.exchange (s : State) : Link → Exchange
  | .client p => s.clients[p].exchange
  | .management => s.management.exchange

/-- The exchange of an interface becomes `x`. -/
def State.setExchange (l : Link) (x : Exchange) (s : State) : State :=
  match l with
  | .client p => s.modifyClient p (fun c => { c with exchange := x })
  | .management => { s with management := { s.management with exchange := x } }

/-- The link of an interface (R152). -/
def State.link (s : State) : Link → LinkState
  | .client p => s.clients[p].link
  | .management => s.management.link

/-- The link of an interface becomes `x`. -/
def State.setLink (l : Link) (x : LinkState) (s : State) : State :=
  match l with
  | .client p => s.modifyClient p (fun c => { c with link := x })
  | .management => { s with management := { s.management with link := x } }

/-- The epoch an interface carries in its responses: 0 on the management port (R158, R166). -/
def State.epochOf (s : State) : Link → Byte
  | .client p => s.clients[p].epoch
  | .management => 0

/-- The lapsed-unseen count an interface carries in its responses: 0 on the management port (R158). -/
def State.lapsedOf (s : State) : Link → Nat
  | .client p => s.ports[p].lapsed
  | .management => 0

/-- The notice count an interface carries in its responses: 0 on the management port (R158). -/
def State.noticesOf (s : State) : Link → Nat
  | .client p => s.ports[p].notices
  | .management => 0

end Sys2Proof.Machine
end

