-- ==== Sys2Proof/Machine/Layouts.lean ====
section
/-!
DEFINITION. The bodies of responses that several meanings write, and the records carried in them (sections 11.5 and 11.6).
What carries nothing is 0 (R188).
-/
namespace Sys2Proof.Machine

/-- The bytes of a handle (section 11.3). -/
def Handle.bytes (h : Handle) : List Byte := leBytes 2 h.encode

/-- The lease-status record of the lease in the record that a handle names (Table 11-8). -/
def leaseStatusRecord (h : Handle) (l : Lease) : List Byte :=
  h.bytes ++ [l.phase.code, byteOf l.port.val] ++ leBytes 2 l.resource ++ [l.mode.code] ++ leBytes 4 l.term
    ++ [bitsByte [l.phase.grant.isSome, l.phase.deadline.isSome, l.clientTag.isSome, l.phase.reason.isSome]]
    ++ leBytes 4 ((l.phase.grant.map Grant.token).getD 0) ++ leBytes 6 ((l.phase.grant.map Grant.grantedAt).getD 0)
    ++ leBytes 6 (l.phase.deadline.getD 0) ++ leBytes 2 l.renewals ++ [boolByte l.phase.upgradePending]
    ++ leBytes 4 ((l.clientTag.map BitVec.toNat).getD 0) ++ [(l.phase.reason.map CloseReason.code).getD 0]
    ++ [l.flags.code]

/-- The notice entry of the lease in the record that a handle names (Table 11-9, R123). -/
def noticeEntry (h : Handle) (l : Lease) : List Byte :=
  h.bytes ++ [l.flags.code, l.phase.code] ++ leBytes 2 l.resource ++ [l.mode.code]
    ++ [bitsByte [l.phase.grant.isSome, l.phase.deadline.isSome, l.phase.reason.isSome, l.clientTag.isSome]]
    ++ leBytes 4 ((l.phase.grant.map Grant.token).getD 0) ++ leBytes 6 (l.phase.deadline.getD 0)
    ++ [(l.phase.reason.map CloseReason.code).getD 0] ++ leBytes 4 ((l.clientTag.map BitVec.toNat).getD 0)

/-- The entry block (Table 11-10). -/
def Entry.block (e : Entry) : List Byte :=
  leBytes 2 e.resource ++ [e.state.code]
    ++ [bitsByte [e.settings.sharing, e.settings.guardLine.isSome, e.upgrade.isSome]] ++ [byteOf e.settings.maxSharers]
    ++ leBytes 4 e.settings.minTerm ++ leBytes 4 e.settings.maxTerm ++ leBytes 2 e.settings.grace
    ++ [byteOf e.settings.maxWaiters, byteOf ((e.settings.guardLine.map Fin.val).getD 0)]
    ++ leBytes 2 e.settings.guardGap ++ leBytes 4 e.counter

/-- The holder entry of a handle in a holder list (Table 11-10); of no record if the record is FREE, which no holder's
is (R24). -/
def holderEntry (s : State) (h : Handle) : List Byte :=
  match s.lease h.index with
  | some l =>
    [byteOf l.port.val, l.mode.code] ++ leBytes 4 ((l.phase.grant.map Grant.token).getD 0)
      ++ [boolByte l.phase.isGrace] ++ h.bytes
  | none => List.replicate 7 0 ++ h.bytes

/-- The body of CLAIM GRANTED (Table 11-11). -/
def grantedBody (h : Handle) (token term deadline : Nat) : List Byte :=
  h.bytes ++ leBytes 4 token ++ leBytes 4 term ++ leBytes 6 deadline

/-- The body of CLAIM QUEUED (Table 11-11). -/
def queuedBody (h : Handle) (term position : Nat) (deadline : Option Nat) : List Byte :=
  h.bytes ++ leBytes 4 term ++ [byteOf position, bitsByte [deadline.isSome]] ++ leBytes 6 (deadline.getD 0)

/-- The body of RENEWED and RENEWED_LATE (Table 11-11). -/
def renewedBody (h : Handle) (token term deadline renewals : Nat) : List Byte :=
  h.bytes ++ leBytes 4 token ++ leBytes 4 term ++ leBytes 6 deadline ++ leBytes 2 renewals

/-- The body of NOT_HELD for the lease as it stands (Table 11-11, R71, R74, R79). -/
def notHeldBody (l : Lease) : List Byte :=
  [l.phase.code, bitsByte [l.phase.deadline.isSome, l.phase.reason.isSome]] ++ leBytes 6 (l.phase.deadline.getD 0)
    ++ [(l.phase.reason.map CloseReason.code).getD 0]

/-- The body of UPGRADED (Table 11-11). -/
def upgradedBody (h : Handle) (token grantedAt deadline : Nat) : List Byte :=
  h.bytes ++ leBytes 4 token ++ leBytes 6 grantedAt ++ leBytes 6 deadline

/-- The body of DOWNGRADED for the lease after the request (Table 11-11). -/
def downgradedBody (h : Handle) (l : Lease) : List Byte :=
  h.bytes ++ leBytes 4 ((l.phase.grant.map Grant.token).getD 0) ++ [l.phase.code] ++ leBytes 6 (l.phase.deadline.getD 0)

end Sys2Proof.Machine
end

