-- ==== Sys2Proof/Machine/Engine.lean ====
section
/-!
DEFINITION. The intake arbiter and the taking, answering and completing of a request item (R158, R159, R167 to R169,
R187).
-/
namespace Sys2Proof.Machine

/-- The circular order of the requesters (R168). -/
def requesterCircle : List Requester :=
  [.port 0, .port 1, .port 2, .port 3, .port 4, .port 5, .port 6, .port 7, .management, .expiryUnit]

/-- The place of a requester in the circle (R168). -/
def Requester.position : Requester → Nat
  | .port p => p.val
  | .management => 8
  | .expiryUnit => 9

/-- The circle from the requester after the pointer (R168). -/
def Requester.after (r : Requester) : List Requester :=
  requesterCircle.drop (r.position + 1) ++ requesterCircle.take (r.position + 1)

/-- Whether a requester has an item (R168). -/
def State.hasItem (s : State) : Requester → Bool
  | .port p => s.clients[p].exchange.slot.isSome && s.clients[p].exchange.state == .pending
  | .management => s.management.exchange.slot.isSome && s.management.exchange.state == .pending
  | .expiryUnit => s.offer.isSome

/-- The client port whose reset item is executed next, if one is pending: the lowest-numbered (R163). -/
def State.resetItemPort (s : State) : Option Port := allPorts.find? (fun p => s.clients[p].resetItem)

/-- The requester that the arbiter grants now (R168). None while device reset lasts (R182) or a reset item is pending,
which is executed before any other item (R163). -/
def State.granted (s : State) : Option Requester :=
  if s.nReset && s.resetItemPort.isNone then s.arbiter.after.find? s.hasItem else none

/-- The link of a requester that is an interface. -/
def Requester.link : Requester → Option Link
  | .port p => some (.client p)
  | .management => some .management
  | .expiryUnit => none

/-- The requester of an interface. -/
def requesterOf : Link → Requester
  | .client p => .port p
  | .management => .management

/-- The request that the arbiter grants now, with the interface that submitted it (R168). -/
def State.grantedRequest (s : State) : Option (Link × Frame) :=
  match s.granted with
  | none => none
  | some r =>
    match r.link with
    | none => none
    | some l =>
      match (s.exchange l).slot with
      | none => none
      | some f => some (l, f)

/-- The engine takes the request of an interface: the pointer names it and its slot is emptied (R168). -/
def State.takeRequest (l : Link) (s : State) : State :=
  { s.setExchange l { s.exchange l with slot := none } with arbiter := requesterOf l }

/-- What an item leaves: the state, and the status and body of its response. CLOCK-HOLD accepted has no response
(R142). -/
structure Answer where
  reply : Option (Status × List Byte)
  state : State

/-- An answer with a body. -/
def answer (status : Status) (body : List Byte) (s : State) : Answer := ⟨some (status, body), s⟩

/-- A refusal or another answer without a body, the state unchanged. -/
def refuse (status : Status) (s : State) : Answer := ⟨some (status, []), s⟩

/-- Whether the item's response enters the replay record: every one but an OPEN's from a client port (R159). -/
def recorded (l : Link) (f : Frame) : Bool :=
  match l with
  | .client _ => f.kind != Kind.openSession.code
  | .management => true

/-- The response that the engine writes for a request (R158). -/
def State.response (s : State) (l : Link) (f : Frame) (now : Nat) (status : Status) (body : List Byte) : Response where
  status := status
  kind := f.kind
  epoch := s.epochOf l
  requestId := f.requestId
  now := now
  lapsed := s.lapsedOf l
  notices := s.noticesOf l
  body := body

/-- The engine writes a response into the buffer, and into the replay record where it is recorded; the exchange becomes
READY (R158, R159). -/
def State.deliver (l : Link) (f : Frame) (now : Nat) (status : Status) (body : List Byte) (s : State) : State :=
  s.setExchange l
    { state := .ready
      slot := (s.exchange l).slot
      buffer := some (s.response l f now status body)
      replay :=
        if recorded l f then some ⟨f.requestId, f.kind, f.crc, s.response l f now status body⟩
        else (s.exchange l).replay }

/-- Whether the interface's reset line has risen, so that no response is written (R158, R163). -/
def State.mute (s : State) : Link → Bool
  | .client p => s.clients[p].session == .inReset
  | .management => false

/-- The completion of a request item taken at `now` (R158). -/
def Answer.complete (a : Answer) (l : Link) (f : Frame) (now : Nat) : State :=
  match a.reply with
  | none => a.state
  | some (status, body) => if a.state.mute l then a.state else a.state.deliver l f now status body

/-- A request item of kind `k`: if the arbiter grants a request of this kind, the engine takes it, checks the permission
(R167) and then the body length (R187), executes it and completes it. Otherwise the step does not occur and nothing
changes (log entry 2). -/
def State.serve (k : Kind) (item : Link → Frame → State → Answer) (s : State) : State :=
  match s.grantedRequest with
  | none => s
  | some (l, f) =>
    if f.kind = k.code then
      (if !k.permitted l then refuse .notPermitted (s.takeRequest l)
       else if !k.bodyFits f.body then refuse .badArgument (s.takeRequest l)
       else item l f (s.takeRequest l)).complete l f s.now
    else s

/-- A request item whose kind code names no kind (R167). -/
def State.serveUnknown (s : State) : State :=
  match s.grantedRequest with
  | none => s
  | some (l, f) =>
    if (Kind.ofCode f.kind).isNone then (refuse .unknownKind (s.takeRequest l)).complete l f s.now else s

/-- An item that only client ports send; serve answers the management port before it (R167). -/
def fromClient (item : Port → Frame → State → Answer) : Link → Frame → State → Answer
  | .client p => item p
  | .management => fun _ s => refuse .notPermitted s

/-- An item that only the management port sends; serve answers client ports before it (R167). -/
def fromManagement (item : Frame → State → Answer) : Link → Frame → State → Answer := fun _ => item

end Sys2Proof.Machine
end

