-- ==== Sys2Proof/Machine/Operands.lean ====
section
/-!
DEFINITION. The fields of request bodies (Table 11-7), read as section 11.7 says: codes not listed are read as `none`, and
a field whose presence flag is clear is not read (R188).
-/
namespace Sys2Proof.Machine

/-- The mode of a mode code (Table 11-6). -/
def Mode.decode (b : Byte) : Option Mode := if b = 0 then some .shared else if b = 1 then some .exclusive else none

/-- How long a claim waits (R43). -/
inductive Wait
  | no
  | ticks (n : Nat)
  | indefinite
deriving DecidableEq, Repr

/-- The wait of a wait code and wait ticks; the ticks are read for code 1 only (Table 11-6, R188). -/
def Wait.decode (code : Byte) (ticks : Nat) : Option Wait :=
  if code = 0 then some .no else if code = 1 then some (.ticks ticks) else if code = 2 then some .indefinite else none

/-- Whether a term is in 1..4,194,303 (R43, R68). -/
def termInRange (n : Nat) : Bool := decide (1 ≤ n) && decide (n ≤ Config.maxTerm)

/-- Whether a wait is in range (R43). -/
def Wait.inRange : Wait → Bool
  | .no => true
  | .ticks n => termInRange n
  | .indefinite => true

/-- The number of a guard line, if it is one (R28). -/
def lineOf (n : Nat) : Option LineNo := if h : n < 16 then some ⟨n, h⟩ else none

/-- The number of a client port, if it is one (R171). -/
def portOf (n : Nat) : Option Port := if h : n < 8 then some ⟨n, h⟩ else none

/-- The fields of a CLAIM (R43). -/
structure ClaimArgs where
  resource : Nat
  mode : Option Mode
  term : Nat
  wait : Option Wait
  clientTag : Option (BitVec 32)
deriving DecidableEq, Repr

/-- The fields of a CLAIM's body (Table 11-7). -/
def ClaimArgs.read (b : List Byte) : ClaimArgs where
  resource := field b 0 2
  mode := Mode.decode (byteAt b 2)
  term := field b 3 4
  wait := Wait.decode (byteAt b 7) (field b 8 4)
  clientTag := if bitOf (byteAt b 12) 0 then some (BitVec.ofNat 32 (field b 13 4)) else none

/-- Check 4 of R46: a field of the CLAIM is out of range (R43). -/
def ClaimArgs.inRange (a : ClaimArgs) : Bool :=
  a.mode.isSome && termInRange a.term &&
    match a.wait with
    | some w => w.inRange
    | none => false

/-- The handle at the start of a body (Table 11-7). -/
def readHandle (b : List Byte) : Handle := Handle.decode (field b 0 2)

/-- The term of a RENEW, if it carries one (Table 11-7). -/
def readRenewTerm (b : List Byte) : Option Nat := if bitOf (byteAt b 2) 0 then some (field b 3 4) else none

/-- The wait of an UPGRADE: whether it is ALLOWED, none for a code not listed (Table 11-6). -/
def readUpgradeWait (b : List Byte) : Option Bool :=
  if byteAt b 2 = 0 then some false else if byteAt b 2 = 1 then some true else none

/-- The resource id at the start of a body (Table 11-7). -/
def readResource (b : List Byte) : Nat := field b 0 2

/-- The fields of a DECLARE (R28). The guard line is the byte sent, not yet checked. -/
structure DeclareArgs where
  resource : Nat
  sharing : Bool
  maxSharers : Nat
  minTerm : Nat
  maxTerm : Nat
  grace : Nat
  maxWaiters : Nat
  guardLine : Option Nat
  guardGap : Nat
  tokenBase : Option Nat
deriving DecidableEq, Repr

/-- The fields of a DECLARE's body (Table 11-7). -/
def DeclareArgs.read (b : List Byte) : DeclareArgs where
  resource := field b 0 2
  sharing := bitOf (byteAt b 2) 0
  maxSharers := field b 3 1
  minTerm := field b 4 4
  maxTerm := field b 8 4
  grace := field b 12 2
  maxWaiters := field b 14 1
  guardLine := if bitOf (byteAt b 2) 1 then some (field b 15 1) else none
  guardGap := field b 16 2
  tokenBase := if bitOf (byteAt b 2) 2 then some (field b 18 4) else none

/-- Whether a max sharers is in 1..16 (R28). -/
def sharersInRange (n : Nat) : Bool := decide (1 ≤ n) && decide (n ≤ 16)

/-- Whether a max waiters is in 0..64 (R28). -/
def waitersInRange (n : Nat) : Bool := decide (n ≤ 64)

/-- Whether a guard gap is in 0..1000 (R28). -/
def gapInRange (n : Nat) : Bool := decide (n ≤ 1000)

/-- Check 1 of R29: every field of the DECLARE is in its range (R28). -/
def DeclareArgs.inRange (a : DeclareArgs) : Bool :=
  decide (1 ≤ a.resource) && decide (a.resource ≤ 65535) && sharersInRange a.maxSharers && termInRange a.minTerm
    && termInRange a.maxTerm && decide (a.minTerm ≤ a.maxTerm) && decide (a.grace ≤ 65535) && waitersInRange a.maxWaiters
    && (match a.guardLine with | some n => (lineOf n).isSome | none => true) && gapInRange a.guardGap

/-- The settings that a DECLARE in range gives (R30). -/
def DeclareArgs.settings (a : DeclareArgs) : Settings where
  sharing := a.sharing
  maxSharers := a.maxSharers
  minTerm := a.minTerm
  maxTerm := a.maxTerm
  grace := a.grace
  maxWaiters := a.maxWaiters
  guardLine := a.guardLine.bind lineOf
  guardGap := a.guardGap

/-- The guard field of an AMEND (R31). -/
inductive GuardChange
  | bind (line : LineNo)
  | remove
deriving DecidableEq, Repr

/-- The guard change of an action byte and a line byte, none where one is out of range; the line is not read for a
removal (Table 11-7, R188). -/
def GuardChange.decode (action : Byte) (line : Nat) : Option GuardChange :=
  if action = 0 then (lineOf line).map GuardChange.bind else if action = 1 then some .remove else none

/-- The settings an AMEND carries, each present or absent (R31); the inner `none` of `sharing` and `guard` is a code out
of range (R188). -/
structure AmendArgs where
  resource : Nat
  sharing : Option (Option Bool)
  maxSharers : Option Nat
  minTerm : Option Nat
  maxTerm : Option Nat
  grace : Option Nat
  maxWaiters : Option Nat
  guardGap : Option Nat
  guard : Option (Option GuardChange)
deriving DecidableEq, Repr

/-- A field that is present where its flag is set (R188). -/
def present {α : Type} (flag : Bool) (v : α) : Option α := if flag then some v else none

/-- The boolean of a boolean byte; none for a code not listed (Table 11-6, R188). -/
def readBool (b : Byte) : Option Bool := if b = 0 then some false else if b = 1 then some true else none

/-- The fields of an AMEND's body (Table 11-7). -/
def AmendArgs.read (b : List Byte) : AmendArgs where
  resource := field b 0 2
  sharing := present (bitOf (byteAt b 2) 0) (readBool (byteAt b 3))
  maxSharers := present (bitOf (byteAt b 2) 1) (field b 4 1)
  minTerm := present (bitOf (byteAt b 2) 2) (field b 5 4)
  maxTerm := present (bitOf (byteAt b 2) 3) (field b 9 4)
  grace := present (bitOf (byteAt b 2) 4) (field b 13 2)
  maxWaiters := present (bitOf (byteAt b 2) 5) (field b 15 1)
  guardGap := present (bitOf (byteAt b 2) 6) (field b 16 2)
  guard := present (bitOf (byteAt b 2) 7) (GuardChange.decode (byteAt b 18) (field b 19 1))

/-- The guard line that a guard field leaves bound (R31). -/
def GuardChange.apply : GuardChange → Option LineNo
  | .bind n => some n
  | .remove => none

/-- The settings after an AMEND whose codes are in range (R31). -/
def AmendArgs.apply (a : AmendArgs) (t : Settings) : Settings where
  sharing := (a.sharing.getD none).getD t.sharing
  maxSharers := a.maxSharers.getD t.maxSharers
  minTerm := a.minTerm.getD t.minTerm
  maxTerm := a.maxTerm.getD t.maxTerm
  grace := a.grace.getD t.grace
  maxWaiters := a.maxWaiters.getD t.maxWaiters
  guardLine :=
    match a.guard with
    | some (some g) => g.apply
    | some none => t.guardLine
    | none => t.guardLine
  guardGap := a.guardGap.getD t.guardGap

/-- Check 2 of R31: each setting present is in its range, and the term limits as they would stand are in order. -/
def AmendArgs.inRange (a : AmendArgs) (t : Settings) : Bool :=
  a.sharing != some none && a.guard != some none && a.maxSharers.all sharersInRange && a.minTerm.all termInRange
    && a.maxTerm.all termInRange && decide ((a.apply t).minTerm ≤ (a.apply t).maxTerm)
    && a.grace.all (fun n => decide (n ≤ 65535)) && a.maxWaiters.all waitersInRange && a.guardGap.all gapInRange

/-- One entry of an ACKNOWLEDGE: a handle and the byte of flags to clear (R125). -/
structure AckEntry where
  handle : Handle
  flags : Byte
deriving DecidableEq, Repr

/-- The `n` entries of an ACKNOWLEDGE from the bytes after the entry count (Table 11-7). -/
def readAckEntries : Nat → List Byte → List AckEntry
  | 0, _ => []
  | n + 1, b => ⟨Handle.decode (field b 0 2), byteAt b 2⟩ :: readAckEntries n (b.drop 3)

/-- The entries of an ACKNOWLEDGE's body (Table 11-7). -/
def readAcknowledge (b : List Byte) : List AckEntry := readAckEntries (byteAt b 0).toNat (b.drop 1)

/-- Whether an entry names no flag but the four (R125, R188). -/
def AckEntry.inRange (e : AckEntry) : Bool := decide (e.flags.toNat < 16)

/-- The setting of a DISCIPLINE: whether it is ON; none for a code not listed (Table 11-6, R150). -/
def readDiscipline (b : List Byte) : Option Bool := readBool (byteAt b 0)

end Sys2Proof.Machine
end

