-- ==== Sys2Proof/Machine/Claims.lean ====
section
/-!
DEFINITION. CLAIM: its checks in order, immediate grant, queuing, allocation and reclaim (R6, R12, R13, R43 to R54,
R189).
-/
namespace Sys2Proof.Machine

/-- A term clamped into the entry's limits (R44). -/
def Settings.clamp (t : Settings) (term : Nat) : Nat :=
  if term < t.minTerm then t.minTerm else if t.maxTerm < term then t.maxTerm else term

/-- The record of an index is reclaimed: freed, counted as lapsed-unseen at its owner, and TABLE_PRESSURE posted (R12,
R14). -/
def State.reclaim (i : Index) (s : State) : State :=
  match s.lease i with
  | none => s
  | some l =>
    ((s.putLease i none).modifyPort l.port (fun c => { c with lapsed := min (c.lapsed + 1) Config.maxLapsed })).postTablePressure

/-- The index that a claim obtains: the head of the free pool, or the head of the closed order by reclaim; none if both
are empty (R6, R12, R13). -/
def State.allocate (s : State) : Option (Index × State) :=
  match s.freePool with
  | i :: _ => some (i, s)
  | [] =>
    match s.closedOrder with
    | i :: _ => some (i, s.reclaim i)
    | [] => none

/-- The lease that a CLAIM allocates, in the state it takes (R6). -/
def newLease (p : Port) (a : ClaimArgs) (m : Mode) (term : Nat) (phase : LeasePhase) : Lease where
  port := p
  resource := a.resource
  mode := m
  term := term
  renewals := 0
  clientTag := a.clientTag
  flags := NoticeFlags.none
  phase := phase

/-- A claim is granted at once on record `i` (R50). -/
def State.grantClaim (p : Port) (a : ClaimArgs) (m : Mode) (e : Entry) (i : Index) (s : State) : Answer :=
  let term := e.settings.clamp a.term
  let token := e.counter + 1
  let deadline := satAdd s.now term
  let h := s.handle i
  answer .granted (grantedBody h token term deadline)
    (((s.modifyEntry a.resource (fun x => { x with counter := token, holders := x.holders ++ [h] })).putLease i
      (some (newLease p a m term (.held ⟨token, s.now⟩ deadline false)))).restate a.resource)

/-- The wait deadline of a claim, if it has one (R53). -/
def waitDeadline (now : Nat) : Wait → Option Nat
  | .no => none
  | .ticks n => some (satAdd now n)
  | .indefinite => none

/-- A claim is queued on record `i` (R53). -/
def State.queueClaim (p : Port) (a : ClaimArgs) (m : Mode) (w : Wait) (e : Entry) (i : Index) (s : State) : Answer :=
  let term := e.settings.clamp a.term
  let deadline := waitDeadline s.now w
  let h := s.handle i
  answer .queued (queuedBody h term (e.waiters.length + 1) deadline)
    ((s.modifyEntry a.resource (fun x => { x with waiters := x.waiters ++ [h] })).putLease i
      (some (newLease p a m term (.waiting deadline))))

/-- Checks 7 to 10 of R46, and the grant or the queuing of a claim that passes them. -/
def State.settleClaim (p : Port) (a : ClaimArgs) (m : Mode) (w : Wait) (e : Entry) (s : State) : Answer :=
  if e.grantable m = true ∧ e.counter = Config.tokenLimit then
    answer .exhausted (leBytes 2 a.resource) (s.postTokenLimit a.resource)
  else if e.grantable m = false ∧ w = .no then
    answer .conflict [e.state.code, byteOf e.holders.length] s
  else if e.grantable m = false ∧ e.settings.maxWaiters ≤ e.waiters.length then
    answer .queueFull [byteOf e.waiters.length] s
  else
    match s.allocate with
    | none => refuse .tableFull s.postTablePressure
    | some (i, s1) => if e.grantable m then s1.grantClaim p a m e i else s1.queueClaim p a m w e i

/-- Checks 4 to 6 of R46, on a resource whose entry is `e`. -/
def State.checkClaim (p : Port) (a : ClaimArgs) (e : Entry) (s : State) : Answer :=
  match a.mode, a.wait with
  | some m, some w =>
    if !a.inRange then refuse .badArgument s
    else
      match s.liveOn p a.resource with
      | some i =>
        answer .already ((s.handle i).bytes ++ [((s.lease i).map (fun l => l.phase.code)).getD 0]) s
      | none =>
        if s.ports[p].live = s.ports[p].quota then answer .quota (leBytes 2 s.ports[p].quota) s
        else s.settleClaim p a m w e
  | none, _ => refuse .badArgument s
  | some _, none => refuse .badArgument s

/-- CLAIM within its item: checks 1 to 3 of R46 first. -/
def claimItem (p : Port) (f : Frame) (s : State) : Answer :=
  let a := ClaimArgs.read f.body
  if s.clock.state = .stopped then refuse .clockStopped s
  else
    match s.entry a.resource with
    | none => refuse .noResource s
    | some e =>
      if a.mode = some .shared ∧ e.settings.sharing = false then refuse .modeRefused s else s.checkClaim p a e

/-- CLAIM (R46). -/
def execClaim (s : State) : Host.Outcome State Fault Refusal := .next (s.serve .claim (fromClient claimItem))

end Sys2Proof.Machine
end

