-- ==== Sys2Proof/Machine/Timebase.lean ====
section
/-!
DEFINITION. What time does to the part: REFCLK cycles, phase steps, tick ends with all their effects, the completion of a
hold, and the windows, hits and misses of the Sync Discipline (R136 to R138, R143, R145 to R149).
-/
namespace Sys2Proof.Machine

/-- The clock is RUNNING and the part is not in device reset, so REFCLK and SYNC act (R139, R150, R182). -/
def State.running (s : State) : Bool := s.nReset && s.clock.state == .running

/-! Trim and ticks. -/

/-- Whether the tick at trim position `k` is corrected when the magnitude of trim in use is `m` (R137). -/
def trimCorrects (m k : Nat) : Bool := decide (m * k / Config.trimPeriod < m * (k + 1) / Config.trimPeriod)

/-- A tick begins at step 0; at trim position 0 a trim period begins and trim in use takes trim set (R137). -/
def LeaseClock.beginTick (c : LeaseClock) : LeaseClock :=
  let t := if c.trimPosition = 0 then c.trimSet else c.trimInUse
  { c with trimInUse := t, phase := ⟨0, 0, trimCorrects t.natAbs c.trimPosition⟩ }

/-- The length of the phase step in progress, in REFCLK cycles (R136, R137; DEDUCED at divisor 1, log entry 9). -/
def LeaseClock.stepLength (c : LeaseClock) : Nat :=
  if c.phase.corrected then
    if 0 < c.trimInUse then c.divisor - 1 else c.divisor + 1
  else c.divisor

/-- The clock at a tick end: the count rises unless it stands at the largest, and the trim position advances (R137,
R138). -/
def LeaseClock.endTick (c : LeaseClock) : LeaseClock :=
  { c with
    count := if c.count < Config.maxCount then c.count + 1 else c.count
    trimPosition := (c.trimPosition + 1) % Config.trimPeriod }

/-- The clock when a hold takes effect (R143, step 1). -/
def LeaseClock.hold (c : LeaseClock) : LeaseClock :=
  { c with state := .held, holdRequested := false, phase := ⟨0, 0, false⟩ }

/-! The Sync Discipline. -/

/-- The half-width of a window that opens in a discipline state (R145). -/
def DisciplineState.halfWidth : DisciplineState → Nat
  | .off => 0
  | .acquiring => 5
  | .tracking => 2
  | .holdover => 5

/-- The discipline when a tick begins at `count`: the window of the mark this tick ends at is at hand, or that of the mark
it follows is kept while it is open (R146; log entry 8). -/
def SyncDiscipline.beginTick (count : Nat) (d : SyncDiscipline) : SyncDiscipline :=
  { d with
    window :=
      match d.origin with
      | none => none
      | some o =>
        if o ≤ count ∧ count < Config.maxCount ∧ (count + 1 - o) % Config.markSpacing = 0 then
          some ⟨count + 1, d.state.halfWidth⟩
        else
          match d.window with
          | some w => if w.mark = count then some w else none
          | none => none }

/-- The discipline after a hit; the window is closed (R148). -/
def SyncDiscipline.hit (d : SyncDiscipline) : SyncDiscipline :=
  match d.state with
  | .off => { d with window := none }
  | .acquiring =>
    if d.hits + 1 = 2 then { d with state := .tracking, hits := 0, misses := 0, window := none }
    else { d with hits := d.hits + 1, misses := 0, window := none }
  | .tracking => { d with misses := 0, window := none }
  | .holdover =>
    if d.hits + 1 = 2 then { d with state := .tracking, hits := 0, misses := 0, window := none }
    else { d with hits := d.hits + 1, misses := 0, window := none }

/-- Whether a hit passes from HOLDOVER to TRACKING, which posts SYNC_ACQUIRED (R148). -/
def SyncDiscipline.hitAcquires (d : SyncDiscipline) : Bool := d.state == .holdover && d.hits + 1 == 2

/-- The discipline after a miss; the window is closed (R149). -/
def SyncDiscipline.miss (d : SyncDiscipline) : SyncDiscipline :=
  match d.state with
  | .off => { d with window := none }
  | .acquiring => { d with origin := none, hits := 0, misses := 0, window := none }
  | .tracking =>
    if d.misses + 1 = 3 then { d with state := .holdover, hits := 0, misses := 0, window := none }
    else { d with hits := 0, misses := d.misses + 1, window := none }
  | .holdover =>
    if d.misses + 1 = 8 then { d with state := .acquiring, origin := none, hits := 0, misses := 0, window := none }
    else { d with hits := 0, misses := d.misses + 1, window := none }

/-- Whether a miss passes from TRACKING to HOLDOVER, which posts SYNC_LOST (R149). -/
def SyncDiscipline.missLoses (d : SyncDiscipline) : Bool := d.state == .tracking && d.misses + 1 == 3

/-- The discipline after it is set to OFF or ACQUIRING with no origin (R150). -/
def SyncDiscipline.restart (on : Bool) : SyncDiscipline := ⟨if on then .acquiring else .off, none, 0, 0, none⟩

/-- A hit at the Sync Discipline, with its alert (R148). -/
def State.syncHit (s : State) : State :=
  if s.sync.hitAcquires then ({ s with sync := s.sync.hit } : State).postSyncAcquired else { s with sync := s.sync.hit }

/-- A miss at the Sync Discipline, with its alert (R149). -/
def State.syncMiss (s : State) : State :=
  if s.sync.missLoses then ({ s with sync := s.sync.miss } : State).postSyncLost else { s with sync := s.sync.miss }

/-- Whether the window of the mark just passed is open and closes before step `k` of the tick in progress (R146). -/
def State.windowEndsBefore (s : State) (k : Nat) : Bool :=
  match s.sync.window with
  | some w => w.mark == s.clock.count && decide (w.halfWidth < k)
  | none => false

/-- An open window whose end lies before step `k` of the tick in progress closes as a miss (R149). -/
def State.closeWindowBefore (k : Nat) (s : State) : State := if s.windowEndsBefore k then s.syncMiss else s

/-! Ticks and phase steps of the part. -/

/-- A tick begins at the Lease Clock and the Sync Discipline (R136, R146). -/
def State.beginTick (s : State) : State :=
  { s with clock := s.clock.beginTick, sync := s.sync.beginTick s.clock.count }

/-- The answer that a completed hold owes to the management port (R143, step 3). -/
def State.answerHold (s : State) : State :=
  match s.management.held with
  | none => s
  | some f =>
    ({ s with management := { s.management with held := none } } : State).deliver .management f s.clock.count .heldAt
      (leBytes 6 s.clock.count)

/-- The hold takes effect at a tick end: HELD, the discipline suspended, HELD_AT written (R143, R150). -/
def State.completeHold (s : State) : State :=
  ({ s with clock := s.clock.hold, sync := { s.sync with window := none } } : State).answerHold

/-- A tick end with every effect of R136: the count and trim position, the guard lines whose assert at is reached (R115),
and, where a hold is requested, its completion (R143); otherwise the next tick begins. The Expiry Unit compares the new
count at EXPIRY_OFFER (R91; log entries 4 and 5). -/
def State.tickEnd (s : State) : State :=
  let s1 := s.closeWindowBefore Config.stepsPerTick
  let s2 : State :=
    { s1 with clock := s1.clock.endTick, lines := s1.lines.map (GuardLine.compare s1.clock.endTick.count) }
  if s2.clock.holdRequested then s2.completeHold else s2.beginTick

/-- REFCLK runs on to the start of phase step `k` of the tick in progress; a window that ends before it closes (R136,
R149). -/
def State.enterStep (k : Nat) (s : State) : State :=
  let s1 := s.closeWindowBefore k
  { s1 with clock := { s1.clock with phase := ⟨Fin.ofNat 16 k, 0, false⟩ } }

/-- One REFCLK cycle (R136). -/
def State.refclk (s : State) : State :=
  if s.running then
    if s.clock.phase.cycle + 1 < s.clock.stepLength then
      { s with clock := { s.clock with phase := { s.clock.phase with cycle := s.clock.phase.cycle + 1 } } }
    else if s.clock.phase.step.val + 1 < Config.stepsPerTick then s.enterStep (s.clock.phase.step.val + 1)
    else s.tickEnd
  else s

end Sys2Proof.Machine
end

