-- ==== Sys2Proof/Machine/Clock.lean ====
section
/-!
DEFINITION. The clock requests and DISCIPLINE (R140 to R142, R144, R150), and the events of REFCLK and SYNC: TICK_END,
HOLD_TAKES_EFFECT, SYNC_EDGE and SYNC_WINDOW_MISS (R136, R143, R147 to R149).
-/
namespace Sys2Proof.Machine

/-- The body of CLOCK-SETUP answered OK (Table 11-11). -/
def clockSetupBody (c : LeaseClock) : List Byte :=
  leBytes 2 c.divisor ++ trimBytes c.trimSet ++ trimBytes c.trimInUse ++ [c.state.code]

/-- The clock after a CLOCK-SETUP that passes its checks (R140). -/
def LeaseClock.setup (divisor : Nat) (trim : Int) (c : LeaseClock) : LeaseClock :=
  { c with divisor := divisor, trimSet := trim }

/-- Checks 1 and 2 of R140 hold for a divisor and a trim. -/
def setupInRange (divisor : Nat) (trim : Int) : Bool :=
  decide (1 ≤ divisor) && decide (divisor ≤ 4096) && decide (-255 ≤ trim) && decide (trim ≤ 255)
    && !(divisor == 1 && decide (0 < trim))

/-- CLOCK-SETUP within its item (R140). -/
def clockSetupItem (f : Frame) (s : State) : Answer :=
  let divisor := field f.body 0 2
  let trim := trimOf (field f.body 2 2)
  if !setupInRange divisor trim then refuse .badArgument s
  else if s.clock.state = .running ∧ divisor ≠ s.clock.divisor then refuse .clockRunning s
  else answer .ok (clockSetupBody (s.clock.setup divisor trim)) { s with clock := s.clock.setup divisor trim }

/-- The refusal of a clock request in a state that does not accept it (R141, R142, R144). -/
def wrongState (s : State) : Answer := answer .wrongState [s.clock.state.code] s

/-- The effect of CLOCK-START: RUNNING at trim position 0, tick 1 begins (R141). The count is 0 in STOPPED and is left
as it is (log entry 24). -/
def State.startClock (s : State) : State :=
  ({ s with clock := { s.clock with state := .running, trimPosition := 0 } } : State).beginTick

/-- CLOCK-START within its item (R141). -/
def clockStartItem (_f : Frame) (s : State) : Answer :=
  if s.clock.state = .stopped then answer .ok [] s.startClock else wrongState s

/-- CLOCK-HOLD within its item: the hold is requested, and no response is written yet (R142). -/
def clockHoldItem (f : Frame) (s : State) : Answer :=
  if s.clock.state = .running then
    ⟨none,
      { s with
        clock := { s.clock with holdRequested := true }
        management := { s.management with held := some f } }⟩
  else wrongState s

/-- The discipline at CLOCK-RESUME: one that is not OFF restarts in ACQUIRING with no origin (R144, R150). -/
def SyncDiscipline.resume (d : SyncDiscipline) : SyncDiscipline :=
  if d.state = .off then d else SyncDiscipline.restart true

/-- The effect of CLOCK-RESUME: RUNNING, and the tick that follows the frozen count begins (R144). -/
def State.resumeClock (s : State) : State :=
  ({ s with clock := { s.clock with state := .running }, sync := s.sync.resume } : State).beginTick

/-- CLOCK-RESUME within its item (R144). -/
def clockResumeItem (_f : Frame) (s : State) : Answer :=
  if s.clock.state = .held then answer .ok [] s.resumeClock else wrongState s

/-- DISCIPLINE within its item (R150). -/
def disciplineItem (f : Frame) (s : State) : Answer :=
  match readDiscipline f.body with
  | none => refuse .badArgument s
  | some on =>
    answer .ok [(SyncDiscipline.restart on).state.code] { s with sync := SyncDiscipline.restart on }

/-- The mark origin is set at the count (R147). -/
def State.setOrigin (s : State) : State :=
  { s with sync := { s.sync with origin := some s.clock.count, hits := 0, misses := 0, window := none } }

/-- The tick in progress restarts at step 0, without a tick end and without trim correction (R148). -/
def State.restartTick (s : State) : State := { s with clock := { s.clock with phase := ⟨0, 0, false⟩ } }

/-- REFCLK runs on to phase step `k` of the tick in progress, if it is not in it yet (log entry 7). -/
def State.runTo (k : Fin 16) (s : State) : State :=
  if s.clock.phase.step < k then s.enterStep k.val else s

/-- A rising edge of SYNC in phase step `k` of the tick in progress, which the clock has reached: it sets the origin
(R147), is an early or a late hit (R148), or is ignored (R145, R146). -/
def State.syncEdgeAt (k : Fin 16) (s : State) : State :=
  if s.sync.state = .acquiring ∧ s.sync.origin = none then s.tickEnd.setOrigin
  else
    match s.sync.window with
    | none => s
    | some w =>
      if w.mark = s.clock.count + 1 ∧ Config.stepsPerTick ≤ k.val + w.halfWidth then s.tickEnd.syncHit
      else if w.mark = s.clock.count ∧ k.val ≤ w.halfWidth then s.restartTick.syncHit
      else s

/-- The effect of SYNC_EDGE in step `k`; a step that has passed does not come again, so no edge falls in it (log
entry 7). -/
def State.syncEdge (k : Fin 16) (s : State) : State :=
  if s.running then
    if k < s.clock.phase.step then s else (s.runTo k).syncEdgeAt k
  else s

/-- The effect of SYNC_WINDOW_MISS: the open window of the mark just passed closes at the end of its last step (R146,
R149). -/
def State.windowMiss (s : State) : State :=
  if s.running then
    match s.sync.window with
    | none => s
    | some w =>
      if w.mark = s.clock.count then
        if s.clock.phase.step.val ≤ w.halfWidth then s.enterStep (w.halfWidth + 1) else s.syncMiss
      else s
  else s

/-- CLOCK_SETUP (R140). -/
def execClockSetup (s : State) : Host.Outcome State Fault Refusal :=
  .next (s.serve .clockSetup (fromManagement clockSetupItem))

/-- CLOCK_START (R141). -/
def execClockStart (s : State) : Host.Outcome State Fault Refusal :=
  .next (s.serve .clockStart (fromManagement clockStartItem))

/-- CLOCK_HOLD (R142). -/
def execClockHold (s : State) : Host.Outcome State Fault Refusal :=
  .next (s.serve .clockHold (fromManagement clockHoldItem))

/-- CLOCK_RESUME (R144). -/
def execClockResume (s : State) : Host.Outcome State Fault Refusal :=
  .next (s.serve .clockResume (fromManagement clockResumeItem))

/-- DISCIPLINE (R150). -/
def execDiscipline (s : State) : Host.Outcome State Fault Refusal :=
  .next (s.serve .discipline (fromManagement disciplineItem))

/-- TICK_END (R136). -/
def execTickEnd (s : State) : Host.Outcome State Fault Refusal := .next (if s.running then s.tickEnd else s)

/-- HOLD_TAKES_EFFECT: the first tick end after a CLOCK-HOLD item (R143; log entry 4). -/
def execHoldTakesEffect (s : State) : Host.Outcome State Fault Refusal :=
  .next (if s.running && s.clock.holdRequested then s.tickEnd else s)

/-- SYNC_EDGE (R147, R148). -/
def execSyncEdge (k : Fin 16) (s : State) : Host.Outcome State Fault Refusal := .next (s.syncEdge k)

/-- SYNC_WINDOW_MISS (R149). -/
def execSyncWindowMiss (s : State) : Host.Outcome State Fault Refusal := .next s.windowMiss

end Sys2Proof.Machine
end

