-- ==== Sys2Proof/Machine/Directory.lean ====
section
/-!
DEFINITION. DECLARE, AMEND and RETIRE (R28 to R38, R112).
-/
namespace Sys2Proof.Machine

/-- Whether a declared entry binds a guard line (R29, check 4). -/
def State.lineInUse (s : State) (n : LineNo) : Bool := s.directory.any (fun e => e.settings.guardLine == some n)

/-- Whether a declared entry of another resource binds a guard line (R31, check 4). -/
def State.lineInUseByOther (s : State) (n : LineNo) (resource : Nat) : Bool :=
  s.directory.any (fun e => e.resource != resource && e.settings.guardLine == some n)

/-- A guard line, where one is given, is bound to a resource (R112). -/
def State.bindLine (line : Option LineNo) (resource : Nat) (s : State) : State :=
  match line with
  | some n => s.modifyLine n (GuardLine.bind resource)
  | none => s

/-- A guard line, where one is given, is unbound (R112). -/
def State.unbindLine (line : Option LineNo) (s : State) : State :=
  match line with
  | some n => s.modifyLine n (GuardLine.unbind s.now)
  | none => s

/-- The entry that a DECLARE creates (R30). -/
def DeclareArgs.entry (a : DeclareArgs) : Entry where
  resource := a.resource
  state := .vacant
  settings := a.settings
  counter := a.tokenBase.getD 0
  holders := []
  upgrade := none
  waiters := []

/-- The effect of a DECLARE that passes its checks (R30). -/
def State.declare (a : DeclareArgs) (s : State) : State :=
  ({ s with directory := s.directory ++ [a.entry] } : State).bindLine a.settings.guardLine a.resource

/-- DECLARE within its item: the checks of R29 in order, then R30. -/
def declareItem (f : Frame) (s : State) : Answer :=
  let a := DeclareArgs.read f.body
  if !a.inRange then refuse .badArgument s
  else if (s.entry a.resource).isSome then refuse .exists_ s
  else if Config.directorySize ≤ s.directory.length then refuse .directoryFull s
  else if a.settings.guardLine.any s.lineInUse then refuse .guardInUse s
  else answer .ok (leBytes 2 a.resource ++ leBytes 4 a.entry.counter) (s.declare a)

/-- Whether a record on a resource is live and SHARED (R34). -/
def State.sharedLiveOn (s : State) (resource : Nat) : Bool :=
  !(s.select (fun x => x.any (fun l => l.resource == resource && l.phase.isLive && l.mode == .shared))).isEmpty

/-- Check 3 of R31: the change from the settings of entry `e` to `t` is refused in the entry's present state (R33 to
R35). -/
def State.amendInUse (s : State) (e : Entry) (t : Settings) : Bool :=
  (decide (t.maxSharers < e.settings.maxSharers) && decide (t.maxSharers < e.holders.length))
    || (decide (t.maxWaiters < e.settings.maxWaiters) && decide (t.maxWaiters < e.waiters.length))
    || (e.settings.sharing && !t.sharing && s.sharedLiveOn e.resource)
    || (t.guardLine != e.settings.guardLine && !(e.state == .vacant && e.upgrade.isNone && e.waiters.isEmpty))

/-- Check 4 of R31: the guard line to be bound is bound to another declared entry. -/
def State.guardTaken (s : State) (a : AmendArgs) : Bool :=
  match a.guard with
  | some (some (.bind n)) => s.lineInUseByOther n a.resource
  | some (some .remove) => false
  | some none => false
  | none => false

/-- A change of guard binding reaches the Guard Output Unit: the old line is unbound before the new one is bound (R35,
R112). -/
def State.rebind (old new : Option LineNo) (resource : Nat) (s : State) : State :=
  if old = new then s else (s.unbindLine old).bindLine new resource

/-- The effect of an AMEND that passes its checks, from entry `e` to settings `t`: promotion runs where max sharers is
raised (R31, R33). -/
def State.amend (e : Entry) (t : Settings) (s : State) : State :=
  let s1 := (s.modifyEntry e.resource (fun x => { x with settings := t })).rebind e.settings.guardLine t.guardLine
    e.resource
  if e.settings.maxSharers < t.maxSharers then s1.promote e.resource else s1

/-- The entry block of a resource as it stands (Table 11-10). -/
def State.blockOf (s : State) (resource : Nat) : List Byte :=
  match s.entry resource with
  | some e => e.block
  | none => []

/-- AMEND within its item: the checks of R31 in order. -/
def amendItem (f : Frame) (s : State) : Answer :=
  let a := AmendArgs.read f.body
  match s.entry a.resource with
  | none => refuse .noResource s
  | some e =>
    let t := a.apply e.settings
    if !a.inRange e.settings then refuse .badArgument s
    else if s.amendInUse e t then refuse .inUse s
    else if s.guardTaken a then refuse .guardInUse s
    else answer .ok ((s.amend e t).blockOf e.resource) (s.amend e t)

/-- RETIRE closes the record of a handle, with no promotion (R36). -/
def State.retireRecord (s : State) (h : Handle) : State :=
  match s.lease h.index with
  | some l => s.closeOnly h.index l .retired
  | none => s

/-- The entry of a resource id is removed from the directory (R37). -/
def State.undeclare (resource : Nat) (s : State) : State :=
  { s with directory := s.directory.filter (fun e => e.resource != resource) }

/-- The effect of RETIRE on a declared entry `e`: holders close in grant order, then waiters in arrival order; exclusive
end; the line is unbound; the entry is discarded (R36, R37). -/
def State.retire (e : Entry) (s : State) : State :=
  ((((e.holders ++ e.waiters).foldl State.retireRecord s).restate e.resource).unbindLine e.settings.guardLine).undeclare
    e.resource

/-- RETIRE within its item (R36, R37). -/
def retireItem (f : Frame) (s : State) : Answer :=
  match s.entry (readResource f.body) with
  | none => refuse .noResource s
  | some e =>
    answer .ok
      (leBytes 2 e.resource ++ [byteOf e.holders.length, byteOf e.waiters.length] ++ leBytes 4 e.counter) (s.retire e)

/-- DECLARE (R28 to R30). -/
def execDeclare (s : State) : Host.Outcome State Fault Refusal :=
  .next (s.serve .declare (fromManagement declareItem))

/-- AMEND (R31 to R35). -/
def execAmend (s : State) : Host.Outcome State Fault Refusal := .next (s.serve .amend (fromManagement amendItem))

/-- RETIRE (R36, R37). -/
def execRetire (s : State) : Host.Outcome State Fault Refusal := .next (s.serve .retire (fromManagement retireItem))

end Sys2Proof.Machine
end

