-- ==== Sys2Proof/Machine/Expiry.lean ====
section
/-!
DEFINITION. The Expiry Unit's offer and item (R91 to R97), and the comparison of a guard line with the count (R115).
-/
namespace Sys2Proof.Machine

/-- The effect of EXPIRY_OFFER: an IDLE unit whose list's head is reached offers it (R91). -/
def State.expiryOffer (s : State) : State :=
  if s.nReset ∧ s.offer = none then
    match s.deadlines with
    | [] => s
    | x :: _ => if x.deadline ≤ s.clock.count then { s with offer := some x.index } else s
  else s

/-- The grace of a resource as it stands; 0 where it is not declared, which a HELD record's is (R93; log entry 15). -/
def State.graceOf (s : State) (resource : Nat) : Nat :=
  match s.entry resource with
  | some e => e.settings.grace
  | none => 0

/-- A HELD record whose term ended at `deadline` enters GRACE with WARNING (R93, steps 1 to 3). -/
def State.enterGrace (i : Index) (l : Lease) (grant : Grant) (deadline grace : Nat) (s : State) : State :=
  s.putLease i
    (some { l with phase := .grace grant (satAdd deadline grace), flags := { l.flags with warning := true } })

/-- The pending upgrade of a record is cancelled, and promotion runs (R94). -/
def State.cancelUpgrade (i : Index) (resource : Nat) (s : State) : State :=
  (s.modifyEntry resource (fun e =>
    { e with upgrade := if e.upgrade = some (s.handle i) then none else e.upgrade })).promote resource

/-- The end of term of a HELD record (R93 to R95). -/
def State.endTerm (i : Index) (l : Lease) (grant : Grant) (deadline : Nat) (pending : Bool) (s : State) : State :=
  if s.graceOf l.resource = 0 then s.closeRecord i l .lapsed
  else if pending then (s.enterGrace i l grant deadline (s.graceOf l.resource)).cancelUpgrade i l.resource
  else s.enterGrace i l grant deadline (s.graceOf l.resource)

/-- What an expiry item does to a record in the deadline list whose deadline is reached, by its state (R92, R93, R95,
R96). -/
def State.expire (i : Index) (l : Lease) (s : State) : State :=
  match l.phase with
  | .waiting _ => s.closeRecord i l .waitExpired
  | .held g d u => s.endTerm i l g d u
  | .grace _ _ => s.closeRecord i l .lapsed
  | .closed _ _ => s

/-- Whether a record stands in the deadline list with its deadline reached; if not, its item is void (R92). -/
def State.due (s : State) (i : Index) : Bool :=
  s.deadlines.any (fun x => x.index == i && decide (x.deadline ≤ s.now))

/-- An expiry item that names record `i`, void or not (R92). -/
def State.expiryAct (i : Index) (s : State) : State :=
  if s.due i then
    match s.lease i with
    | some l => s.expire i l
    | none => s
  else s

/-- The effect of EXPIRY_ITEM: the arbiter grants the Expiry Unit, the engine executes its item, and the unit returns to
IDLE (R92, R168). -/
def State.expiryItem (s : State) : State :=
  match s.granted, s.offer with
  | some .expiryUnit, some i => { ({ s with arbiter := .expiryUnit } : State).expiryAct i with offer := none }
  | some .expiryUnit, none => s
  | some (.port _), _ => s
  | some .management, _ => s
  | none, _ => s

/-- EXPIRY_OFFER (R91). -/
def execExpiryOffer (s : State) : Host.Outcome State Fault Refusal := .next s.expiryOffer

/-- EXPIRY_ITEM (R92). -/
def execExpiryItem (s : State) : Host.Outcome State Fault Refusal := .next s.expiryItem

/-- GAP_ASSERT: guard line `n` compares its assert at with the count (R115; log entry 4). -/
def execGapAssert (n : LineNo) (s : State) : Host.Outcome State Fault Refusal :=
  .next (if s.nReset then s.modifyLine n (GuardLine.compare s.clock.count) else s)

end Sys2Proof.Machine
end

