-- ==== Sys2Proof/Machine/Notices.lean ====
section
/-!
DEFINITION. FETCH-NOTICES, ACKNOWLEDGE and ACK-ALERTS (R122 to R127, R131).
-/
namespace Sys2Proof.Machine

/-- The flagged records of a port at or above a cursor, in ascending order of index (R122). -/
def State.flaggedFrom (s : State) (p : Port) (cursor : Nat) : List Index :=
  (s.select (fun x => x.any (fun l => l.port == p && l.flags.any))).filter (fun i => decide (cursor ≤ i.val))

/-- The notice entry of a record (R123). -/
def noticeEntryOf (s : State) (i : Index) : List Byte :=
  match s.lease i with
  | some l => noticeEntry (s.handle i) l
  | none => []

/-- The next cursor: the index after the last one reported, present when eight are reported and one more follows
(R122). -/
def nextCursor (flagged : List Index) : Option Nat :=
  if 8 < flagged.length then (flagged.take 8).getLast?.map (fun i => i.val + 1) else none

/-- The body of FETCH-NOTICES answered OK (Table 11-11, R122). -/
def fetchNoticesBody (s : State) (p : Port) (cursor : Nat) : List Byte :=
  let flagged := s.flaggedFrom p cursor
  [byteOf (flagged.take 8).length, bitsByte [(nextCursor flagged).isSome]] ++ leBytes 2 ((nextCursor flagged).getD 0)
    ++ [byteOf s.ports[p].lapsed] ++ (flagged.take 8).flatMap (noticeEntryOf s)

/-- FETCH-NOTICES within its item: the body is written first, and then the lapsed-unseen count is cleared (R122,
R124). -/
def fetchNoticesItem (p : Port) (f : Frame) (s : State) : Answer :=
  let cursor := field f.body 0 2
  if 511 < cursor then refuse .badArgument s
  else answer .ok (fetchNoticesBody s p cursor) (s.modifyPort p (fun c => { c with lapsed := 0 }))

/-- The outcome of an entry of an ACKNOWLEDGE (R125). -/
inductive AckOutcome
  | done
  | badHandle
  | notSet
deriving DecidableEq, Repr

/-- The code of an outcome (Table 11-6). -/
def AckOutcome.code : AckOutcome → Byte
  | .done => 0
  | .badHandle => 1
  | .notSet => 2

/-- The bytes of a result of an ACKNOWLEDGE (Table 11-11, R125). -/
def ackResult (outcome : AckOutcome) (cleared : NoticeFlags) (remaining : Option NoticeFlags) : List Byte :=
  [outcome.code, cleared.code, bitsByte [remaining.isSome], (remaining.map NoticeFlags.code).getD 0]

/-- One entry of an ACKNOWLEDGE from port `p`: its result and the state it leaves (R126). -/
def State.acknowledge (p : Port) (e : AckEntry) (s : State) : List Byte × State :=
  match s.resolve (.client p) e.handle with
  | none => (ackResult .badHandle NoticeFlags.none none, s)
  | some l =>
    let cleared := (NoticeFlags.decode e.flags).inter l.flags
    if !cleared.any then (ackResult .notSet NoticeFlags.none (some l.flags), s)
    else if cleared.closed then (ackResult .done cleared none, s.freeRecord e.handle.index l)
    else
      (ackResult .done cleared (some (l.flags.minus cleared)),
       s.putLease e.handle.index (some { l with flags := l.flags.minus cleared }))

/-- The entries of an ACKNOWLEDGE one after another, each on the records as those before it have left them (R125). -/
def State.acknowledgeAll (p : Port) : List AckEntry → State → List Byte × State
  | [], s => ([], s)
  | e :: es, s =>
    ((s.acknowledge p e).1 ++ (State.acknowledgeAll p es (s.acknowledge p e).2).1,
     (State.acknowledgeAll p es (s.acknowledge p e).2).2)

/-- ACKNOWLEDGE within its item (R125, R126). The number of entries was checked with the body length (R187). -/
def acknowledgeItem (p : Port) (f : Frame) (s : State) : Answer :=
  let entries := readAcknowledge f.body
  if entries.all AckEntry.inRange then
    answer .ok ([byteOf entries.length] ++ (s.acknowledgeAll p entries).1) (s.acknowledgeAll p entries).2
  else refuse .badArgument s

/-- ACK-ALERTS within its item: the alert set is reported as it stands, and then the alerts named are cleared (R131). -/
def ackAlertsItem (f : Frame) (s : State) : Answer :=
  answer .ok s.management.alerts.block (s.setAlerts (s.management.alerts.clear (byteAt f.body 0)))

/-- FETCH_NOTICES (R122 to R124). -/
def execFetchNotices (s : State) : Host.Outcome State Fault Refusal :=
  .next (s.serve .fetchNotices (fromClient fetchNoticesItem))

/-- ACKNOWLEDGE (R125, R126). -/
def execAcknowledge (s : State) : Host.Outcome State Fault Refusal :=
  .next (s.serve .acknowledge (fromClient acknowledgeItem))

/-- ACK_ALERTS (R131). -/
def execAckAlerts (s : State) : Host.Outcome State Fault Refusal :=
  .next (s.serve .ackAlerts (fromManagement ackAlertsItem))

end Sys2Proof.Machine
end

