-- ==== Sys2Proof/Machine/Renewal.lean ====
section
/-!
DEFINITION. RENEW, RELEASE, UPGRADE and DOWNGRADE (R64, R67 to R80).
-/
namespace Sys2Proof.Machine

/-- The term of a renewal: a term given is clamped into the limits as they stand; else the stored term is used as it
stands (R69). A held record's resource is declared (R27, R93); without an entry there are no limits (log entry 15). -/
def State.settleTerm (s : State) (l : Lease) (given : Option Nat) : Nat :=
  match given with
  | none => l.term
  | some t =>
    match s.entry l.resource with
    | some e => e.settings.clamp t
    | none => t

/-- The lease after a renewal at `now` to a term, in HELD (R69, R70). `late` says that it was in GRACE, whose WARNING is
removed. -/
def Lease.renew (now term : Nat) (grant : Grant) (pending late : Bool) (l : Lease) : Lease :=
  { l with
    term := term
    renewals := min (l.renewals + 1) Config.maxRenewals
    flags := { l.flags with warning := l.flags.warning && !late }
    phase := .held grant (satAdd now term) pending }

/-- A record is renewed (R69, R70). -/
def State.renewRecord (h : Handle) (l : Lease) (grant : Grant) (pending late : Bool) (given : Option Nat) (s : State) :
    Answer :=
  if given.any (fun t => !termInRange t) then refuse .badArgument s
  else
    let l1 := l.renew s.now (s.settleTerm l given) grant pending late
    answer (if late then .renewedLate else .renewed)
      (renewedBody h grant.token l1.term (satAdd s.now l1.term) l1.renewals) (s.putLease h.index (some l1))

/-- RENEW within its item (R68). -/
def renewItem (p : Port) (f : Frame) (s : State) : Answer :=
  let h := readHandle f.body
  if s.clock.state = .stopped then refuse .clockStopped s
  else
    match s.resolve (.client p) h with
    | none => refuse .badHandle s
    | some l =>
      match l.phase with
      | .waiting _ => answer .notHeld (notHeldBody l) s
      | .closed _ r => answer .closedAlready [r.code] s
      | .held g _ u => s.renewRecord h l g u false (readRenewTerm f.body)
      | .grace g _ => s.renewRecord h l g false true (readRenewTerm f.body)

/-- RELEASE within its item (R64, R72, R73). -/
def releaseItem (p : Port) (f : Frame) (s : State) : Answer :=
  let h := readHandle f.body
  match s.resolve (.client p) h with
  | none => refuse .badHandle s
  | some l =>
    match l.phase with
    | .closed _ r => answer .closedAlready [r.code] (s.freeRecord h.index l)
    | .waiting _ => answer .released [l.phase.code] (s.releaseRecord h.index l)
    | .held _ _ _ => answer .released [l.phase.code] (s.releaseRecord h.index l)
    | .grace _ _ => answer .released [l.phase.code] (s.releaseRecord h.index l)

/-- A pending upgrade is placed at the head of the wait queue (R76). -/
def State.placeUpgrade (h : Handle) (l : Lease) (grant : Grant) (deadline : Nat) (s : State) : State :=
  (s.modifyEntry l.resource (fun e => { e with upgrade := some h })).putLease h.index
    (some { l with phase := .held grant deadline true })

/-- Checks 5 to 10 of R74, on a HELD SHARED record of an entry `e`. -/
def State.settleUpgrade (h : Handle) (l : Lease) (grant : Grant) (deadline : Nat) (pending allowed : Bool) (e : Entry)
    (s : State) : Answer :=
  if pending then answer .upgradePending (h.bytes ++ [byteOf e.holders.length]) s
  else if e.holders = [h] then
    if e.counter = Config.tokenLimit then answer .exhausted (leBytes 2 l.resource) (s.postTokenLimit l.resource)
    else
      answer .upgraded (upgradedBody h (e.counter + 1) s.now deadline)
        (s.makeExclusive l.resource h l deadline (e.counter + 1) false)
  else if e.upgrade.isSome then answer .conflict [byteOf e.holders.length, 1] s
  else if !allowed then answer .conflict [byteOf e.holders.length, 0] s
  else answer .upgradePending (h.bytes ++ [byteOf e.holders.length]) (s.placeUpgrade h l grant deadline)

/-- UPGRADE within its item (R74; the place of check 4 is DEDUCED, log entry 22). A held record's resource is declared (R27,
R93); the answer without an entry is the model's own (log entry 15). -/
def upgradeItem (p : Port) (f : Frame) (s : State) : Answer :=
  let h := readHandle f.body
  match s.resolve (.client p) h with
  | none => refuse .badHandle s
  | some l =>
    match l.phase with
    | .held g d u =>
      if l.mode = .exclusive then refuse .badArgument s
      else
        match readUpgradeWait f.body with
        | none => refuse .badArgument s
        | some allowed =>
          match s.entry l.resource with
          | none => refuse .noResource s
          | some e => s.settleUpgrade h l g d u allowed e
    | .waiting _ => answer .notHeld (notHeldBody l) s
    | .grace _ _ => answer .notHeld (notHeldBody l) s
    | .closed _ _ => answer .notHeld (notHeldBody l) s

/-- An EXCLUSIVE holder becomes SHARED: exclusive end, then promotion (R80). -/
def State.downgradeRecord (h : Handle) (l : Lease) (s : State) : State :=
  ((s.putLease h.index (some { l with mode := .shared })).restate l.resource).promote l.resource

/-- Checks 3 and 4 of R79, on a HELD or GRACE record. -/
def State.settleDowngrade (h : Handle) (l : Lease) (s : State) : Answer :=
  if l.mode = .shared then refuse .badArgument s
  else
    match s.entry l.resource with
    | none => refuse .modeRefused s
    | some e =>
      if e.settings.sharing = false then refuse .modeRefused s
      else answer .downgraded (downgradedBody h l) (s.downgradeRecord h l)

/-- DOWNGRADE within its item (R79). -/
def downgradeItem (p : Port) (f : Frame) (s : State) : Answer :=
  let h := readHandle f.body
  match s.resolve (.client p) h with
  | none => refuse .badHandle s
  | some l =>
    match l.phase with
    | .waiting _ => answer .notHeld (notHeldBody l) s
    | .closed _ _ => answer .notHeld (notHeldBody l) s
    | .held _ _ _ => s.settleDowngrade h l
    | .grace _ _ => s.settleDowngrade h l

/-- RENEW (R68). -/
def execRenew (s : State) : Host.Outcome State Fault Refusal := .next (s.serve .renew (fromClient renewItem))

/-- RELEASE (R64, R72, R73). -/
def execRelease (s : State) : Host.Outcome State Fault Refusal := .next (s.serve .release (fromClient releaseItem))

/-- UPGRADE (R74). -/
def execUpgrade (s : State) : Host.Outcome State Fault Refusal := .next (s.serve .upgrade (fromClient upgradeItem))

/-- DOWNGRADE (R79). -/
def execDowngrade (s : State) : Host.Outcome State Fault Refusal := .next (s.serve .downgrade (fromClient downgradeItem))

end Sys2Proof.Machine
end

