-- ==== Sys2Proof/Machine/Reports.lean ====
section
/-!
DEFINITION. The requests that report and change nothing: LEASE-STATUS (R18, R19), QUERY (R39), VALIDATE (R109, R110),
DEVICE-STATUS (R180) and PORT-STATUS (R181).
-/
namespace Sys2Proof.Machine

/-- LEASE-STATUS within its item, from a client port or from the management port (R18, R19). -/
def leaseStatusItem (link : Link) (f : Frame) (s : State) : Answer :=
  let h := readHandle f.body
  match s.resolve link h with
  | none => refuse .badHandle s
  | some l => answer .ok (leaseStatusRecord h l) s

/-- The body of QUERY answered OK (Table 11-11, R39). -/
def queryBody (s : State) (e : Entry) : List Byte :=
  e.block ++ [byteOf e.holders.length, byteOf e.waiters.length] ++ e.holders.flatMap (holderEntry s)

/-- QUERY within its item (R39). -/
def queryItem (_link : Link) (f : Frame) (s : State) : Answer :=
  match s.entry (readResource f.body) with
  | none => refuse .noResource s
  | some e => answer .ok (queryBody s e) s

/-- The lease of the holder that carries a token, if there is one (R105). -/
def State.holderOfToken (s : State) (e : Entry) (token : Nat) : Option Lease :=
  (e.holders.filterMap (fun h => s.lease h.index)).find? (fun l => l.phase.grant.any (fun g => g.token == token))

/-- The body of CURRENT_EXCLUSIVE and CURRENT_SHARED (R110). -/
def currentBody (l : Lease) (counter : Nat) : List Byte :=
  [boolByte l.phase.isGrace, byteOf l.port.val] ++ leBytes 4 counter

/-- The classification of a token of a declared entry (R109, conditions 2 to 5). -/
def State.classifyToken (s : State) (e : Entry) (token : Nat) : Answer :=
  if e.counter < token then answer .unissued (leBytes 4 e.counter) s
  else
    match s.holderOfToken e token with
    | none => answer .superseded (leBytes 4 e.counter) s
    | some l =>
      match e.state with
      | .exclusive => answer .currentExclusive (currentBody l e.counter) s
      | .shared => answer .currentShared (currentBody l e.counter) s
      | .vacant => answer .superseded (leBytes 4 e.counter) s

/-- VALIDATE within its item (R109, R110). -/
def validateItem (_link : Link) (f : Frame) (s : State) : Answer :=
  match s.entry (readResource f.body) with
  | none => refuse .noResource s
  | some e => s.classifyToken e (field f.body 2 4)

/-- The number of records whose lease, if they have one, satisfies `q` (R180). -/
def State.countRecords (s : State) (q : Option Lease → Bool) : Nat := (s.select q).length

/-- Whether a record is not FREE and its phase satisfies `q`. -/
def phaseIs (q : LeasePhase → Bool) (x : Option Lease) : Bool := x.any (fun l => q l.phase)

/-- WAITING. -/
def LeasePhase.isWaiting : LeasePhase → Bool
  | .waiting _ => true
  | .held _ _ _ => false
  | .grace _ _ => false
  | .closed _ _ => false

/-- HELD. -/
def LeasePhase.isHeld : LeasePhase → Bool
  | .waiting _ => false
  | .held _ _ _ => true
  | .grace _ _ => false
  | .closed _ _ => false

/-- The numbers of FREE, WAITING, HELD, GRACE and CLOSED records (R180). -/
def State.recordCounts (s : State) : List Nat :=
  [s.countRecords (fun x => x.isNone), s.countRecords (phaseIs LeasePhase.isWaiting),
   s.countRecords (phaseIs LeasePhase.isHeld), s.countRecords (phaseIs LeasePhase.isGrace),
   s.countRecords (phaseIs LeasePhase.isClosed)]

/-- The body of DEVICE-STATUS answered OK (Table 11-11, R180). -/
def deviceStatusBody (s : State) : List Byte :=
  [s.clock.state.code] ++ leBytes 6 s.now ++ leBytes 2 s.clock.divisor ++ trimBytes s.clock.trimSet
    ++ trimBytes s.clock.trimInUse ++ [s.sync.state.code, boolByte s.sync.origin.isSome]
    ++ s.recordCounts.flatMap (leBytes 2) ++ leBytes 2 s.freePool.length ++ leBytes 2 s.deadlines.length
    ++ leBytes 2 s.directory.length ++ s.lines.toList.map (fun g => g.state.code) ++ s.management.alerts.block

/-- DEVICE-STATUS within its item (R180). -/
def deviceStatusItem (_f : Frame) (s : State) : Answer := answer .ok (deviceStatusBody s) s

/-- The body of PORT-STATUS answered OK (Table 11-11, R181). -/
def portStatusBody (s : State) (p : Port) : List Byte :=
  [byteOf p.val, s.clients[p].session.code, s.clients[p].epoch, s.clients[p].exchange.state.code]
    ++ leBytes 2 s.ports[p].quota ++ leBytes 2 s.ports[p].live ++ leBytes 2 s.ports[p].closed
    ++ leBytes 2 s.ports[p].notices ++ [byteOf s.ports[p].lapsed]

/-- PORT-STATUS within its item (R171, R181). -/
def portStatusItem (f : Frame) (s : State) : Answer :=
  match portOf (byteAt f.body 0).toNat with
  | none => refuse .badArgument s
  | some p => answer .ok (portStatusBody s p) s

/-- LEASE_STATUS (R18, R19). -/
def execLeaseStatus (s : State) : Host.Outcome State Fault Refusal := .next (s.serve .leaseStatus leaseStatusItem)

/-- QUERY (R39). -/
def execQuery (s : State) : Host.Outcome State Fault Refusal := .next (s.serve .query queryItem)

/-- VALIDATE (R109, R110). -/
def execValidate (s : State) : Host.Outcome State Fault Refusal := .next (s.serve .validate validateItem)

/-- DEVICE_STATUS (R180). -/
def execDeviceStatus (s : State) : Host.Outcome State Fault Refusal :=
  .next (s.serve .deviceStatus (fromManagement deviceStatusItem))

/-- PORT_STATUS (R181). -/
def execPortStatus (s : State) : Host.Outcome State Fault Refusal :=
  .next (s.serve .portStatus (fromManagement portStatusItem))

end Sys2Proof.Machine
end

