-- ==== Sys2Proof/Machine/Sessions.lean ====
section
/-!
DEFINITION. OPEN and LEAVE (R161, R162), and the answer to a kind code that names no kind (R167).
-/
namespace Sys2Proof.Machine

/-- The epoch after an OPEN: from 255 it goes to 1 (R161). -/
def nextEpoch (e : Byte) : Byte := if e = 255 then 1 else e + 1

/-- The number of live records a port owns (R162, R176). -/
def State.ownedLive (s : State) (p : Port) : Nat :=
  (s.select (fun x => x.any (fun l => l.port == p && l.phase.isLive))).length

/-- The number of CLOSED records a port owns (R162, R176). -/
def State.ownedClosed (s : State) (p : Port) : Nat :=
  (s.select (fun x => x.any (fun l => l.port == p && l.phase.isClosed))).length

/-- The effect of OPEN on an OFFLINE port (R161). -/
def State.openSession (p : Port) (s : State) : State :=
  (s.modifyPort p (fun c => { c with lapsed := 0 })).modifyClient p (fun c =>
    { c with session := .online, epoch := nextEpoch c.epoch, exchange := { c.exchange with replay := none } })

/-- OPEN within its item (R161). An item taken before the reset line rose finds IN_RESET only in states that no run
reaches, since items are whole; it then does nothing (log entry 15). -/
def openItem (p : Port) (_f : Frame) (s : State) : Answer :=
  match s.clients[p].session with
  | .offline =>
    answer .opened ([nextEpoch s.clients[p].epoch] ++ leBytes 2 s.ports[p].quota) (s.openSession p)
  | .online => answer .sessionActive [s.clients[p].epoch] s
  | .inReset => refuse .offline s

/-- LEAVE within its item (R162). -/
def leaveItem (p : Port) (_f : Frame) (s : State) : Answer :=
  answer .left (leBytes 2 (s.ownedLive p) ++ leBytes 2 (s.ownedClosed p))
    ((s.freeAllOf p).modifyClient p (fun c => { c with session := .offline }))

/-- OPEN (R161). -/
def execOpenSession (s : State) : Host.Outcome State Fault Refusal := .next (s.serve .openSession (fromClient openItem))

/-- LEAVE (R162). -/
def execLeave (s : State) : Host.Outcome State Fault Refusal := .next (s.serve .leave (fromClient leaveItem))

/-- UNKNOWN_KIND (R167). -/
def execUnknownKind (s : State) : Host.Outcome State Fault Refusal := .next s.serveUnknown

end Sys2Proof.Machine
end

