-- ==== Sys2Proof/Machine/Administration.lean ====
section
/-!
DEFINITION. SET-QUOTA, REVOKE, PORT-RESET and CLEAR-ALL (R171 to R179).
-/
namespace Sys2Proof.Machine

/-- SET-QUOTA within its item (R172). -/
def setQuotaItem (f : Frame) (s : State) : Answer :=
  let quota := field f.body 1 2
  match portOf (byteAt f.body 0).toNat with
  | none => refuse .badArgument s
  | some p =>
    if quota < 1 ∨ 256 < quota then refuse .badArgument s
    else if quota < s.ports[p].live then answer .inUse (leBytes 2 s.ports[p].live) s
    else
      answer .ok ([byteOf p.val] ++ leBytes 2 quota ++ leBytes 2 s.ports[p].live)
        (s.modifyPort p (fun c => { c with quota := quota }))

/-- The body of REVOKE answered OK, for the lease as it stood before (Table 11-11, R173). -/
def revokedBody (l : Lease) : List Byte :=
  [byteOf l.port.val, l.phase.code, l.mode.code, bitsByte [l.phase.grant.isSome]]
    ++ leBytes 4 ((l.phase.grant.map Grant.token).getD 0)

/-- The body of NOT_LIVE: the state CLOSED and the close reason, or neither (Table 11-11, R173). -/
def notLiveBody (l : Option Lease) : List Byte :=
  match l with
  | some x => [bitsByte [true], x.phase.code, (x.phase.reason.map CloseReason.code).getD 0]
  | none => [bitsByte [false], 0, 0]

/-- REVOKE within its item (R173, R174). -/
def revokeItem (f : Frame) (s : State) : Answer :=
  let h := readHandle f.body
  match s.resolve .management h with
  | none => answer .notLive (notLiveBody none) s
  | some l =>
    match l.phase with
    | .closed _ _ => answer .notLive (notLiveBody (some l)) s
    | .waiting _ => answer .ok (revokedBody l) (s.closeRecord h.index l .revoked)
    | .held _ _ _ => answer .ok (revokedBody l) (s.closeRecord h.index l .revoked)
    | .grace _ _ => answer .ok (revokedBody l) (s.closeRecord h.index l .revoked)

/-- A port context whose live, closed, notice and lapsed-unseen counts are 0; the quota is kept (R21, R22). -/
def PortContext.emptied (c : PortContext) : PortContext := ⟨c.quota, 0, 0, 0, 0⟩

/-- A client interface whose exchange is IDLE, slot and buffer empty, replay record absent (R163, R170, R176, R178). -/
def ClientInterface.emptied (c : ClientInterface) : ClientInterface := { c with exchange := Exchange.reset }

/-- A client interface whose session has ended: OFFLINE, or still IN_RESET (R160). -/
def ClientInterface.ended (c : ClientInterface) : ClientInterface :=
  { c with session := if c.session = .inReset then .inReset else .offline }

/-- The records of a port are freed with their promotions, its counts become 0 and PORT_RESET is posted for it (R22, R42,
R164, R176 steps 4 to 6). -/
def State.emptyPort (p : Port) (s : State) : State :=
  ((s.freeAllOf p).modifyPort p PortContext.emptied).postPortReset p

/-- The effect of PORT-RESET: steps 1 to 3, 4 to 6, and 7 of R176. -/
def State.portReset (p : Port) (s : State) : State :=
  ((s.modifyClient p ClientInterface.emptied).emptyPort p).modifyClient p ClientInterface.ended

/-- PORT-RESET within its item (R171, R176). -/
def portResetItem (f : Frame) (s : State) : Answer :=
  match portOf (byteAt f.body 0).toNat with
  | none => refuse .badArgument s
  | some p =>
    answer .ok
      ([byteOf p.val] ++ leBytes 2 (s.ownedLive p) ++ leBytes 2 (s.ownedClosed p)
        ++ [bitsByte [s.clients[p].exchange.slot.isSome, s.clients[p].exchange.buffer.isSome]])
      (s.portReset p)

/-- An entry after CLEAR-ALL: VACANT, its lists emptied, its settings and counter kept (R41). -/
def Entry.cleared (e : Entry) : Entry := { e with state := .vacant, holders := [], upgrade := none, waiters := [] }

/-- A record after CLEAR-ALL: FREE, its tag advanced (R21). -/
def LeaseRecord.cleared (r : LeaseRecord) : LeaseRecord := ⟨r.tag + 1, none⟩

/-- The effect of CLEAR-ALL on every block but the Management Interface, which is unchanged but for its own response
(R178). -/
def State.clearAll (s : State) : State :=
  { s with
    records := s.records.map LeaseRecord.cleared
    freePool := allIndices
    closedOrder := []
    ports := s.ports.map PortContext.emptied
    directory := s.directory.map Entry.cleared
    deadlines := []
    offer := none
    lines := s.lines.map (GuardLine.clearAll s.now)
    clients := s.clients.map (fun c => c.emptied.ended) }

/-- The number of records that are live (R178). -/
def State.liveRecords (s : State) : Nat :=
  (s.select (fun x => x.any (fun l => l.phase.isLive))).length

/-- The number of records that are CLOSED (R178). -/
def State.closedRecords (s : State) : Nat :=
  (s.select (fun x => x.any (fun l => l.phase.isClosed))).length

/-- CLEAR-ALL within its item (R178). -/
def clearAllItem (_f : Frame) (s : State) : Answer :=
  answer .ok (leBytes 2 s.liveRecords ++ leBytes 2 s.closedRecords ++ leBytes 2 s.directory.length) s.clearAll

/-- SET_QUOTA (R172). -/
def execSetQuota (s : State) : Host.Outcome State Fault Refusal :=
  .next (s.serve .setQuota (fromManagement setQuotaItem))

/-- REVOKE (R173, R174). -/
def execRevoke (s : State) : Host.Outcome State Fault Refusal := .next (s.serve .revoke (fromManagement revokeItem))

/-- PORT_RESET (R176). -/
def execPortReset (s : State) : Host.Outcome State Fault Refusal :=
  .next (s.serve .portReset (fromManagement portResetItem))

/-- CLEAR_ALL (R178). -/
def execClearAll (s : State) : Host.Outcome State Fault Refusal :=
  .next (s.serve .clearAll (fromManagement clearAllItem))

end Sys2Proof.Machine
end

