-- ==== Sys2Proof/Machine/Links.lean ====
section
/-!
DEFINITION. Transactions on the nine links and the port-layer checks: COMMAND_BYTE, SUBMIT, COLLECT and
IGNORED_TRANSACTION (R152 to R157, R166, R185).
-/
namespace Sys2Proof.Machine

/-- `n` bytes that the part shifts out. -/
def Shift.bytes (x : Shift) (n : Nat) : List Byte := x.head.take n ++ List.replicate (n - x.head.length) x.fill

/-- The bytes shifted out over the spans of a transaction, `clocked` of them in each (log entry 12). -/
def shiftedBytes : List Shift → List Nat → List Byte
  | x :: xs, n :: ns => x.bytes n ++ shiftedBytes xs ns
  | [], _ => []
  | _ :: _, [] => []

/-- Filler for every byte (Table 11-1). -/
def Shift.filler : Shift := ⟨[], Config.fillerByte⟩

/-- OFFLINE-IGNORED for every byte (Table 11-1). -/
def Shift.offlineIgnored : Shift := ⟨[], Config.offlineIgnoredByte⟩

/-- What a command byte selects (R152, Table 11-1). -/
def Selection.ofByte (b : Byte) : Selection :=
  if b = Config.submitByte then .submit else if b = Config.collectByte then .collect else .other

/-- Whether the reset line of a link's port is high; the management link has none (R166). -/
def State.lineHigh (s : State) : Link → Bool
  | .client p => s.clients[p].resetLine
  | .management => false

/-- What COLLECT copies for shifting out: the response frame (R154). -/
def Exchange.copy (x : Exchange) : List Byte :=
  match x.buffer with
  | some r => r.encode
  | none => []

/-- The transaction of a served link, by what its first byte selects and the exchange state (R152 to R154). -/
def servedTransaction (sel : Selection) (x : Exchange) : Transaction :=
  match sel with
  | .submit =>
    match x.state with
    | .pending => ⟨.submit, .nothing, [⟨[Config.busyByte], Config.fillerByte⟩], false⟩
    | .idle => ⟨.submit, .takeFrame, [⟨[Config.acceptedByte], Config.fillerByte⟩], false⟩
    | .ready => ⟨.submit, .takeFrame, [⟨[Config.acceptedByte], Config.fillerByte⟩], false⟩
    | .collected => ⟨.submit, .takeFrame, [⟨[Config.acceptedByte], Config.fillerByte⟩], false⟩
  | .collect =>
    match x.state with
    | .idle => ⟨.collect, .nothing, [⟨[Config.notReadyByte], Config.fillerByte⟩], false⟩
    | .pending => ⟨.collect, .nothing, [⟨[Config.notReadyByte], Config.fillerByte⟩], false⟩
    | .ready => ⟨.collect, .markCollected, [⟨x.copy, Config.fillerByte⟩], false⟩
    | .collected => ⟨.collect, .markCollected, [⟨x.copy, Config.fillerByte⟩], false⟩
  | .other => ⟨.other, .nothing, [Shift.filler], false⟩

/-- The transaction that begins with a command byte: ignored in device reset (R182), answered OFFLINE-IGNORED while the
port's reset line is high (R152 to R154), else served. The flag is DESIGN CHOICE, log entry 13. That the level of the line as
the byte completes decides, even if the line was high earlier inside the byte, is DESIGN CHOICE, log entry 25. -/
def State.openTransaction (s : State) (l : Link) (b : Byte) (selectedInReset : Bool) : Transaction :=
  if !s.nReset || selectedInReset then ⟨Selection.ofByte b, .nothing, [Shift.filler], true⟩
  else if s.lineHigh l then ⟨Selection.ofByte b, .nothing, [Shift.offlineIgnored], false⟩
  else servedTransaction (Selection.ofByte b) (s.exchange l)

/-- The effect of COMMAND_BYTE; the part has shifted out filler during the command byte itself (section 11.1). A link carries
one transaction at a time, so a command byte inside one does not occur (R152). -/
def State.commandByte (l : Link) (b : Byte) (selectedInReset : Bool) (s : State) : State :=
  match (s.link l).transaction with
  | some _ => s
  | none => s.setLink l ⟨some (s.openTransaction l b selectedInReset), [Config.fillerByte]⟩

/-- The end of a transaction on its link: the bytes it shifted out after its command byte are recorded. -/
def State.endTransaction (l : Link) (t : Transaction) (clocked : List Nat) (s : State) : State :=
  s.setLink l ⟨none, (s.link l).shiftedOut ++ shiftedBytes t.shifts clocked⟩

/-- A response built by the port layer (R157). -/
def State.portResponse (s : State) (l : Link) (status : Status) (kind requestId : Byte) (body : List Byte) : Response where
  status := status
  kind := kind
  epoch := s.epochOf l
  requestId := requestId
  now := s.clock.count
  lapsed := s.lapsedOf l
  notices := s.noticesOf l
  body := body

/-- The port layer answers a taken frame: the exchange becomes READY with `r`, the replay record unchanged (R155, R156,
R159). -/
def State.portAnswer (l : Link) (r : Response) (s : State) : State :=
  s.setExchange l { s.exchange l with state := .ready, buffer := some r }

/-- A frame enters the request slot: PENDING, the previous response discarded (R155, R156 check 5). -/
def State.enterSlot (l : Link) (f : Frame) (s : State) : State :=
  s.setExchange l { s.exchange l with state := .pending, slot := some f, buffer := none }

/-- Whether the epoch field lets a frame match the replay record: on a client port it must be current; the management
port does not check it (R156 check 2, R166). -/
def State.replayEpoch (s : State) (l : Link) (f : Frame) : Bool :=
  match l with
  | .client p => f.epoch == s.clients[p].epoch
  | .management => true

/-- The stored response that a frame matches, if any (R156 check 2, R159). -/
def State.replayOf (s : State) (l : Link) (f : Frame) : Option Response :=
  match (s.exchange l).replay with
  | none => none
  | some r =>
    if s.replayEpoch l f && r.requestId == f.requestId && r.kind == f.kind && r.crc == f.crc then some r.response
    else none

/-- Checks 3 and 4 of R156 on a client port; the management port takes neither (R166). -/
def State.sessionRefusal (s : State) (l : Link) (f : Frame) : Option Status :=
  match l with
  | .management => none
  | .client p =>
    if f.kind = Kind.openSession.code then none
    else if s.clients[p].session = .offline then some .offline
    else if f.epoch ≠ s.clients[p].epoch then some .staleSession
    else none

/-- The checks that the Port Interface applies to the bytes of a taken frame (R156). -/
def State.takeFrame (l : Link) (bytes : List Byte) (s : State) : State :=
  match checkFrame bytes with
  | .error reason =>
    s.portAnswer l (s.portResponse l .frameError (byteAt bytes 0) (byteAt bytes 2) [reason.code])
  | .ok f =>
    match s.replayOf l f with
    | some r => s.portAnswer l r
    | none =>
      match s.sessionRefusal l f with
      | some status => s.portAnswer l (s.portResponse l status f.kind f.requestId [])
      | none => s.enterSlot l f

/-- The effect of SUBMIT. -/
def State.submit (l : Link) (bytes : List Byte) (clocked : List Nat) (s : State) : State :=
  match (s.link l).transaction with
  | none => s
  | some t =>
    if t.selection = .submit then
      if t.atEnd = .takeFrame then (s.endTransaction l t clocked).takeFrame l bytes else s.endTransaction l t clocked
    else s

/-- A COLLECT that copied the response ends: READY becomes COLLECTED (R154). -/
def State.markCollected (l : Link) (s : State) : State :=
  if (s.exchange l).state = .ready then s.setExchange l { s.exchange l with state := .collected } else s

/-- The effect of COLLECT. -/
def State.collect (l : Link) (clocked : List Nat) (s : State) : State :=
  match (s.link l).transaction with
  | none => s
  | some t =>
    if t.selection = .collect then
      if t.atEnd = .markCollected then (s.endTransaction l t clocked).markCollected l else s.endTransaction l t clocked
    else s

/-- The effect of IGNORED_TRANSACTION: a transaction with another first byte ends, or one that ended before its first byte
was complete, so that no whole byte was shifted out (R152). -/
def State.ignoreTransaction (l : Link) (clocked : List Nat) (s : State) : State :=
  match (s.link l).transaction with
  | none => s.setLink l ⟨none, []⟩
  | some t => if t.selection = .other then s.endTransaction l t clocked else s

/-- COMMAND_BYTE (R152 to R154, R182). -/
def execCommandByte (l : Link) (b : Byte) (selectedInReset : Bool) (s : State) : Host.Outcome State Fault Refusal :=
  .next (s.commandByte l b selectedInReset)

/-- SUBMIT (R153, R156). -/
def execSubmit (l : Link) (bytes : List Byte) (clocked : List Nat) (s : State) : Host.Outcome State Fault Refusal :=
  .next (s.submit l bytes clocked)

/-- COLLECT (R154). -/
def execCollect (l : Link) (clocked : List Nat) (s : State) : Host.Outcome State Fault Refusal :=
  .next (s.collect l clocked)

/-- IGNORED_TRANSACTION (R152). -/
def execIgnoredTransaction (l : Link) (clocked : List Nat) (s : State) : Host.Outcome State Fault Refusal :=
  .next (s.ignoreTransaction l clocked)

end Sys2Proof.Machine
end

