-- ==== Sys2Proof/Machine/Resets.lean ====
section
/-!
DEFINITION. The port reset lines and the reset item (R163, R164), and device reset: NRESET_FALL, NRESET_RISE and POWER_ON
(R182, R183).
-/
namespace Sys2Proof.Machine

/-- A transaction that changes nothing at its end, and shifts out `x` from now on; one that device reset fell upon stays
ignored (R182). -/
def Transaction.cut (x : Shift) (t : Transaction) : Transaction :=
  if t.abandoned then t else { t with atEnd := .nothing, shifts := t.shifts ++ [x] }

/-- A link on which the reset line of its port changes: from the rise on the part shifts out OFFLINE-IGNORED (R153, R154),
and no longer than the line is high, so that filler follows its fall (Table 11-1; DEDUCED, log entry 12). -/
def LinkState.cut (x : Shift) (k : LinkState) : LinkState :=
  { k with transaction := k.transaction.map (Transaction.cut x) }

/-- A client interface when its reset line rises (R163). A transaction whose command byte is not complete yet is decided at its
completion (DESIGN CHOICE, log entry 25). -/
def ClientInterface.lineRises (c : ClientInterface) : ClientInterface where
  session := .inReset
  epoch := c.epoch
  exchange := Exchange.reset
  resetItem := true
  resetLine := true
  link := c.link.cut Shift.offlineIgnored

/-- The effect of PORT_RST_RISE; in device reset only the level changes (R163, R182). A line that is high does not
rise. -/
def State.portRstRise (p : Port) (s : State) : State :=
  if s.clients[p].resetLine then s
  else if s.nReset then s.modifyClient p ClientInterface.lineRises
  else s.modifyClient p (fun c => { c with resetLine := true })

/-- A client interface when its reset line falls; a transaction under way has changed nothing and shifts out filler from now
on (R152, R164, Table 11-1). -/
def ClientInterface.lineFalls (c : ClientInterface) : ClientInterface :=
  { c with
    resetLine := false
    session := if c.session = .inReset then .offline else c.session
    link := c.link.cut Shift.filler }

/-- The effect of PORT_RST_FALL; in device reset only the level changes (R164, R182). A line that is low does not
fall. -/
def State.portRstFall (p : Port) (s : State) : State :=
  if !s.clients[p].resetLine then s
  else if s.nReset then s.modifyClient p ClientInterface.lineFalls
  else s.modifyClient p (fun c => { c with resetLine := false })

/-- The reset item of port `p` (R164). -/
def State.resetItemOf (p : Port) (s : State) : State :=
  (s.emptyPort p).modifyClient p (fun c => { c with resetItem := false })

/-- The effect of RESET_ITEM: the pending reset item of the lowest-numbered port is executed; the arbiter's pointer does
not move (R163, R164, R168). -/
def State.resetItem (s : State) : State :=
  if s.nReset then
    match s.resetItemPort with
    | some p => s.resetItemOf p
    | none => s
  else s

/-- A transaction that device reset falls upon: ignored to its end, filler from now on (R182). -/
def Transaction.abandon (t : Transaction) : Transaction := { t.cut Shift.filler with abandoned := true }

/-- A link on which device reset falls (R182). -/
def LinkState.abandon (x : LinkState) : LinkState := { x with transaction := x.transaction.map Transaction.abandon }

/-- A client interface in device reset: the level of its reset line stays, the transaction under way is abandoned (R182,
R183). -/
def ClientInterface.deviceReset (c : ClientInterface) : ClientInterface :=
  { ClientInterface.reset with resetLine := c.resetLine, link := c.link.abandon }

/-- Every block at its device-reset value (R183). What lies outside the blocks stays: the levels of the inputs, the bytes
on the links and the queue of commands (DESIGN CHOICE, log entry 18). -/
def State.deviceReset (s : State) : State :=
  { State.reset with
    clients := s.clients.map ClientInterface.deviceReset
    management := { State.reset.management with link := s.management.link.abandon }
    nReset := s.nReset
    pending := s.pending }

/-- nRESET falls: device reset begins (R182). -/
def State.beginReset (s : State) : State := { s.deviceReset with nReset := false }

/-- A client interface when device reset ends: IN_RESET where its line is high (R183). -/
def ClientInterface.readLine (c : ClientInterface) : ClientInterface :=
  if c.resetLine then { c with session := .inReset } else c

/-- nRESET rises: device reset ends, and each port's reset line is read (R183). -/
def State.endReset (s : State) : State :=
  { s.deviceReset with clients := s.deviceReset.clients.map ClientInterface.readLine, nReset := true }

/-- PORT_RST_RISE (R163). -/
def execPortRstRise (p : Port) (s : State) : Host.Outcome State Fault Refusal := .next (s.portRstRise p)

/-- PORT_RST_FALL (R164). -/
def execPortRstFall (p : Port) (s : State) : Host.Outcome State Fault Refusal := .next (s.portRstFall p)

/-- RESET_ITEM (R164). -/
def execResetItem (s : State) : Host.Outcome State Fault Refusal := .next s.resetItem

/-- NRESET_FALL; an input that is low does not fall (R182). -/
def execNresetFall (s : State) : Host.Outcome State Fault Refusal := .next (if s.nReset then s.beginReset else s)

/-- NRESET_RISE; an input that is high does not rise (R183). -/
def execNresetRise (s : State) : Host.Outcome State Fault Refusal := .next (if s.nReset then s else s.endReset)

/-- POWER_ON: nRESET held low from the moment the supply comes up; with nRESET high, device reset ends at once (R182). -/
def execPowerOn (high : Bool) (s : State) : Host.Outcome State Fault Refusal :=
  .next (if high then s.endReset else s.beginReset)

end Sys2Proof.Machine
end

