-- ==== Sys2Proof/Machine/Dispatch.lean ====
section
/-!
DEFINITION. The effect of each command, one arm per row of spec/opcode_table.json.
-/
namespace Sys2Proof.Machine

def exec (i : Instr) (s : State) : Host.Outcome State Fault Refusal :=
  match i with
  | .submit l bytes clocked => Sys2Proof.Machine.execSubmit l bytes clocked s
  | .collect l clocked => Sys2Proof.Machine.execCollect l clocked s
  | .ignoredTransaction l clocked => Sys2Proof.Machine.execIgnoredTransaction l clocked s
  | .openSession => Sys2Proof.Machine.execOpenSession s
  | .leave => Sys2Proof.Machine.execLeave s
  | .claim => Sys2Proof.Machine.execClaim s
  | .renew => Sys2Proof.Machine.execRenew s
  | .release => Sys2Proof.Machine.execRelease s
  | .upgrade => Sys2Proof.Machine.execUpgrade s
  | .downgrade => Sys2Proof.Machine.execDowngrade s
  | .leaseStatus => Sys2Proof.Machine.execLeaseStatus s
  | .fetchNotices => Sys2Proof.Machine.execFetchNotices s
  | .acknowledge => Sys2Proof.Machine.execAcknowledge s
  | .query => Sys2Proof.Machine.execQuery s
  | .validate => Sys2Proof.Machine.execValidate s
  | .declare => Sys2Proof.Machine.execDeclare s
  | .amend => Sys2Proof.Machine.execAmend s
  | .retire => Sys2Proof.Machine.execRetire s
  | .revoke => Sys2Proof.Machine.execRevoke s
  | .setQuota => Sys2Proof.Machine.execSetQuota s
  | .portReset => Sys2Proof.Machine.execPortReset s
  | .clearAll => Sys2Proof.Machine.execClearAll s
  | .clockSetup => Sys2Proof.Machine.execClockSetup s
  | .clockStart => Sys2Proof.Machine.execClockStart s
  | .clockHold => Sys2Proof.Machine.execClockHold s
  | .clockResume => Sys2Proof.Machine.execClockResume s
  | .discipline => Sys2Proof.Machine.execDiscipline s
  | .deviceStatus => Sys2Proof.Machine.execDeviceStatus s
  | .portStatus => Sys2Proof.Machine.execPortStatus s
  | .ackAlerts => Sys2Proof.Machine.execAckAlerts s
  | .unknownKind => Sys2Proof.Machine.execUnknownKind s
  | .portRstRise p => Sys2Proof.Machine.execPortRstRise p s
  | .portRstFall p => Sys2Proof.Machine.execPortRstFall p s
  | .resetItem => Sys2Proof.Machine.execResetItem s
  | .nresetFall => Sys2Proof.Machine.execNresetFall s
  | .nresetRise => Sys2Proof.Machine.execNresetRise s
  | .powerOn high => Sys2Proof.Machine.execPowerOn high s
  | .tickEnd => Sys2Proof.Machine.execTickEnd s
  | .expiryOffer => Sys2Proof.Machine.execExpiryOffer s
  | .expiryItem => Sys2Proof.Machine.execExpiryItem s
  | .gapAssert n => Sys2Proof.Machine.execGapAssert n s
  | .holdTakesEffect => Sys2Proof.Machine.execHoldTakesEffect s
  | .syncEdge k => Sys2Proof.Machine.execSyncEdge k s
  | .syncWindowMiss => Sys2Proof.Machine.execSyncWindowMiss s
  | .commandByte l b inReset => Sys2Proof.Machine.execCommandByte l b inReset s

end Sys2Proof.Machine
end

