-- ==== Sys2Proof/Safety.lean ====
section
/-!
DEFINITION. What the statements about the part are said in: the invariants of its blocks, what it means that an item is
served and answered, and what an item leaves unchanged.
-/
namespace Sys2Proof.Machine

/-! Invariants. Each says what the spec says of one block in every state of the part. -/

/-- The free pool holds the index of every FREE record once, and no other (R5, R9). -/
def PoolOk (s : State) : Prop :=
  s.freePool.Nodup ∧ ∀ i, i ∈ s.freePool ↔ s.lease i = none

/-- The closed order holds the index of every CLOSED record once, and no other (R10). -/
def ClosedOk (s : State) : Prop :=
  s.closedOrder.Nodup ∧ ∀ i, i ∈ s.closedOrder ↔ leaseClosed (s.lease i) = true

/-- The deadline list holds every record with a deadline, each once with that deadline, and no other, in order of deadline
and then index (R86). -/
def DeadlinesOk (s : State) : Prop :=
  s.deadlines.Pairwise (fun a b => a.before b = true) ∧
    ∀ (d : Nat) (i : Index),
      (⟨d, i⟩ : DeadlineItem) ∈ s.deadlines ↔ ∃ l, s.lease i = some l ∧ l.phase.deadline = some d

/-- The number of records of port `p` whose lease satisfies `q`. -/
def State.countOf (s : State) (p : Port) (q : Lease → Bool) : Nat :=
  allIndices.countP (fun i => match s.lease i with | some l => l.port == p && q l | none => false)

/-- The counts of every port are those of its records, and the live count stays within the quota, which is in 1..256 (R15
to R17, R121). -/
def CountsOk (s : State) : Prop :=
  ∀ p : Port,
    s.ports[p].live = s.countOf p (fun l => l.phase.isLive) ∧
    s.ports[p].closed = s.countOf p (fun l => l.phase.isClosed) ∧
    s.ports[p].notices = s.countOf p (fun l => l.flags.any) ∧
    s.ports[p].live ≤ s.ports[p].quota ∧ 1 ≤ s.ports[p].quota ∧ s.ports[p].quota ≤ 256 ∧
    s.ports[p].lapsed ≤ Config.maxLapsed

/-- The ranges of the Lease Clock's values (R136 to R138, R140). -/
def ClockOk (s : State) : Prop :=
  s.clock.count ≤ Config.maxCount ∧ 1 ≤ s.clock.divisor ∧ s.clock.divisor ≤ 4096 ∧
    -255 ≤ s.clock.trimSet ∧ s.clock.trimSet ≤ 255 ∧ -255 ≤ s.clock.trimInUse ∧ s.clock.trimInUse ≤ 255 ∧
    s.clock.trimPosition < Config.trimPeriod ∧ (s.clock.divisor = 1 → s.clock.trimSet ≤ 0)

/-- While the clock is STOPPED the count is 0, every record is FREE, the deadline list is empty and the Expiry Unit is
IDLE (R101, R139). -/
def StoppedOk (s : State) : Prop :=
  s.clock.state = .stopped →
    s.clock.count = 0 ∧ (∀ i, s.lease i = none) ∧ s.deadlines = [] ∧ s.offer = none

/-- The sessions agree with the reset lines, the slots and the records: a port that is not ONLINE and has no reset item
pending owns no record, and one that is ONLINE has an epoch above 0 (R160, R163). -/
def SessionsOk (s : State) : Prop :=
  ∀ p : Port,
    (s.clients[p].session = .inReset →
      s.nReset = true ∧ s.clients[p].resetLine = true ∧ s.clients[p].exchange.slot = none ∧
        ∀ t, s.clients[p].link.transaction = some t → t.atEnd ≠ .takeFrame) ∧
    (s.clients[p].session = .online → s.clients[p].epoch ≠ 0) ∧
    (s.clients[p].session ≠ .online →
      (∀ f, s.clients[p].exchange.slot = some f → f.kind = Kind.openSession.code) ∧
        (s.clients[p].resetItem = false → ∀ i l, s.lease i = some l → l.port ≠ p))

/-- A transaction that device reset fell upon, and every transaction while device reset lasts, does nothing at its end
(R182); filler has been shifted out during the command byte of every transaction under way (section 11.1). -/
def LinksOk (s : State) : Prop :=
  ∀ l t, (s.link l).transaction = some t → (t.abandoned = true → t.atEnd = .nothing) ∧
    (s.nReset = false → t.abandoned = true) ∧ (s.link l).shiftedOut = [0xFF#8]

/-- The resource that a line is bound to (R111). -/
def LineState.binding : LineState → Option Nat
  | .unbound => none
  | .clear r => some r
  | .gapWait r _ => some r
  | .asserted r => some r

/-- A line is GAP_WAIT or ASSERTED, the states of a line whose resource is EXCLUSIVE (R111). -/
def LineState.isBegun : LineState → Bool
  | .unbound => false
  | .clear _ => false
  | .gapWait _ _ => true
  | .asserted _ => true

/-- The guard lines and the directory agree: resource ids are distinct; a line is bound to a resource exactly where that
resource's entry names the line; and it is GAP_WAIT or ASSERTED exactly while the entry is EXCLUSIVE (R27, R111, R116). -/
def GuardsOk (s : State) : Prop :=
  (s.directory.map Entry.resource).Nodup ∧
    (∀ e ∈ s.directory, ∀ n, e.settings.guardLine = some n →
      s.lines[n].state.binding = some e.resource ∧ (s.lines[n].state.isBegun = true ↔ e.state = .exclusive)) ∧
    (∀ (n : LineNo) (r : Nat), s.lines[n].state.binding = some r →
      ∃ e ∈ s.directory, e.resource = r ∧ e.settings.guardLine = some n)

/-- The settings of an entry are in their ranges (R23, R28). -/
def Settings.inRange (t : Settings) : Prop :=
  1 ≤ t.maxSharers ∧ t.maxSharers ≤ 16 ∧ 1 ≤ t.minTerm ∧ t.minTerm ≤ t.maxTerm ∧ t.maxTerm ≤ Config.maxTerm ∧
    t.grace ≤ 65535 ∧ t.maxWaiters ≤ 64 ∧ t.guardGap ≤ 1000

/-- The directory holds at most 256 entries, no two with one id, with ids, settings and counters in their ranges, and no wait
queue holds more than max waiters claims (R23, R27, R52, R103). -/
def DirectoryOk (s : State) : Prop :=
  s.directory.length ≤ Config.directorySize ∧ (s.directory.map Entry.resource).Nodup ∧
    ∀ e ∈ s.directory,
      1 ≤ e.resource ∧ e.resource ≤ 65535 ∧ e.settings.inRange ∧ e.counter ≤ Config.tokenLimit ∧
        e.waiters.length ≤ e.settings.maxWaiters

/-- The notice flags that a record may hold by its state (Table 1-2, R118). -/
def FlagsOk (l : Lease) : Prop :=
  match l.phase with
  | .waiting _ => l.flags.any = false
  | .held _ _ _ => l.flags.closed = false
  | .grace _ _ => l.flags.closed = false
  | .closed _ _ => l.flags.closed = true

/-- The fields of a lease are in their ranges and those of its state: a WAITING record has not been renewed, no grant lies
after now, and the close reason fits whether the record was ever granted (R1, R2). -/
def LeaseOk (now : Nat) (l : Lease) : Prop :=
  1 ≤ l.resource ∧ l.resource ≤ 65535 ∧ 1 ≤ l.term ∧ l.term ≤ Config.maxTerm ∧ l.renewals ≤ Config.maxRenewals ∧
    FlagsOk l ∧ (∀ d, l.phase.deadline = some d → d ≤ Config.maxCount) ∧
    (∀ g, l.phase.grant = some g → g.token ≤ Config.tokenLimit ∧ g.grantedAt ≤ now) ∧
    (∀ d, l.phase = .waiting d → l.renewals = 0) ∧
    (∀ g r, l.phase = .closed g r → if g = none then r ≠ .lapsed else r ≠ .waitExpired)

/-- Every record that is not FREE has the fields of its state, in their ranges (R1, R2). -/
def RecordsOk (s : State) : Prop := ∀ i l, s.lease i = some l → LeaseOk s.clock.count l

/-- The Sync Discipline's counts and origin are those its state allows. A window is that of a mark at hand or just passed, with
the half-width of the state it opens in: 2 phase steps in TRACKING, 5 in ACQUIRING and HOLDOVER; and the mark at which a
RUNNING tick ends has its window (R145, R146, R150; what stands for an open window is log entry 8). -/
def SyncOk (s : State) : Prop :=
  let d := s.sync
  (d.state = .off → d.origin = none ∧ d.hits = 0 ∧ d.misses = 0) ∧
    (d.state = .acquiring → d.hits ≤ 1 ∧ d.misses = 0 ∧ (d.origin = none → d.hits = 0)) ∧
    (d.state = .tracking → d.origin ≠ none ∧ d.hits = 0 ∧ d.misses ≤ 2) ∧
    (d.state = .holdover → d.origin ≠ none ∧ d.hits ≤ 1 ∧ d.misses ≤ 7) ∧
    (∀ o, d.origin = some o → o ≤ s.clock.count ∧ s.clock.state ≠ .stopped) ∧
    (∀ w, d.window = some w →
      s.clock.state = .running ∧ w.halfWidth = (if d.state = .tracking then 2 else 5) ∧ w.mark ≤ Config.maxCount ∧
        (∃ o, d.origin = some o ∧ o < w.mark ∧ (w.mark - o) % 1000 = 0) ∧
        (w.mark = s.clock.count + 1 ∨ w.mark = s.clock.count ∧ s.clock.phase.step.val ≤ w.halfWidth)) ∧
    ∀ o, d.origin = some o → s.clock.state = .running → s.clock.count < Config.maxCount →
      (s.clock.count + 1 - o) % 1000 = 0 →
        d.window = some ⟨s.clock.count + 1, if d.state = .tracking then 2 else 5⟩

/-- The slot and the buffer of an exchange are those that its state gives; `owed` says that the slot may be empty in PENDING,
while a CLOCK-HOLD waits for its tick end (the table of R155). -/
def ExchangeOk (owed : Prop) (x : Exchange) : Prop :=
  (x.state = .idle → x.slot = none ∧ x.buffer = none) ∧
    (x.state = .pending → x.buffer = none ∧ (x.slot = none → owed)) ∧
    (x.state = .ready ∨ x.state = .collected → x.slot = none ∧ x.buffer ≠ none)

/-- Every exchange agrees with the table of R155, a port IN_RESET has nothing in its exchange, a frame that will be taken never
meets a PENDING exchange, and a CLOCK-HOLD is owed its HELD_AT exactly while the hold is requested, in RUNNING (R142, R143,
R153, R155, R163). -/
def ExchangesOk (s : State) : Prop :=
  (∀ l, ExchangeOk (l = .management ∧ s.management.held ≠ none) (s.exchange l)) ∧
    (∀ p : Port, s.clients[p].session = .inReset → s.clients[p].exchange = ⟨.idle, none, none, none⟩) ∧
    (∀ l t, (s.link l).transaction = some t → t.atEnd = .takeFrame → (s.exchange l).state ≠ .pending) ∧
    (s.management.held ≠ none ↔ s.clock.holdRequested = true) ∧
    (s.management.held ≠ none →
      s.management.exchange.state = .pending ∧ s.management.exchange.slot = none ∧ s.clock.state = .running)

/-- A handle in the holder list of `e` names a HELD or GRACE record that carries the entry's id (R24). -/
def HolderOk (s : State) (e : Entry) (h : Handle) : Prop :=
  s.handle h.index = h ∧ ∃ l, s.lease h.index = some l ∧ l.resource = e.resource ∧ l.phase.isHolder = true

/-- A handle in the wait queue of `e` names a WAITING record that carries the entry's id (R52). -/
def WaiterOk (s : State) (e : Entry) (h : Handle) : Prop :=
  s.handle h.index = h ∧
    ∃ l, s.lease h.index = some l ∧ l.resource = e.resource ∧ l.phase.isHolder = false ∧ l.phase.isLive = true

/-- The record of a handle has a mode. -/
def HasMode (s : State) (m : Mode) (h : Handle) : Prop := ∃ l, s.lease h.index = some l ∧ l.mode = m

/-- The state of an entry is the one its holder list fixes (R24). -/
def StateOk (s : State) (e : Entry) : Prop :=
  match e.state with
  | .vacant => e.holders = []
  | .exclusive => ∃ h, e.holders = [h] ∧ HasMode s .exclusive h
  | .shared =>
    1 ≤ e.holders.length ∧ e.holders.length ≤ e.settings.maxSharers ∧ ∀ h ∈ e.holders, HasMode s .shared h

/-- The pending-upgrade reference of `e` names the one record of `e` whose upgrade-pending flag is set (R52, R76). -/
def UpgradeOk (s : State) (e : Entry) : Prop :=
  ∀ h ∈ e.holders, e.upgrade = some h ↔ ∃ l, s.lease h.index = some l ∧ l.phase.upgradePending = true

/-- The token of the record of a handle. -/
def State.tokenOf (s : State) (h : Handle) : Option Nat :=
  (s.lease h.index).bind (fun l => l.phase.grant.map Grant.token)

/-- The tokens of the holders of `e` are distinct and no greater than its counter, which the token of an EXCLUSIVE holder
equals (R105). -/
def TokensOk (s : State) (e : Entry) : Prop :=
  (e.holders.map s.tokenOf).Nodup ∧ (∀ h ∈ e.holders, ∃ k, s.tokenOf h = some k ∧ k ≤ e.counter) ∧
    (e.state = .exclusive → ∀ h ∈ e.holders, s.tokenOf h = some e.counter)

/-- One declared entry agrees with the records (R24, R25, R52, R76, R105). -/
def EntryOk (s : State) (e : Entry) : Prop :=
  1 ≤ e.settings.maxSharers ∧ e.holders.Nodup ∧ e.waiters.Nodup ∧ (∀ h ∈ e.holders, HolderOk s e h) ∧
    (∀ h ∈ e.waiters, WaiterOk s e h) ∧ StateOk s e ∧ (∀ h, e.upgrade = some h → h ∈ e.holders) ∧ UpgradeOk s e ∧
    TokensOk s e

/-- A live lease stands in the holder list or the wait queue of its resource (R5, R52). -/
def Listed (s : State) (i : Index) (l : Lease) : Prop :=
  ∃ e ∈ s.directory, e.resource = l.resource ∧
    if l.phase.isHolder then s.handle i ∈ e.holders else s.handle i ∈ e.waiters

/-- The Lease Store and the Resource Directory agree: ids are distinct, every entry agrees with the records, every live
record is listed, no port has two live records on a resource, a record with an upgrade pending is SHARED, and a SHARED live
record stands only on a resource that allows sharing (R2, R24, R27, R34, R48, R52). -/
def TableOk (s : State) : Prop :=
  (s.directory.map Entry.resource).Nodup ∧ (∀ e ∈ s.directory, EntryOk s e) ∧
    (∀ i l, s.lease i = some l → l.phase.isLive = true → Listed s i l) ∧
    (∀ i j l m, s.lease i = some l → s.lease j = some m → l.phase.isLive = true → m.phase.isLive = true →
      l.port = m.port → l.resource = m.resource → i = j) ∧
    (∀ i l, s.lease i = some l → l.phase.upgradePending = true → l.mode = .shared) ∧
    (∀ e ∈ s.directory, e.settings.sharing = false →
      ∀ i l, s.lease i = some l → l.resource = e.resource → l.phase.isLive = true → l.mode = .exclusive)

/-- The head of the wait queue of `e` is one that its resource cannot grant (R63). -/
def HeadBlocked (s : State) (e : Entry) : Prop :=
  match e.upgrade with
  | some h => e.holders ≠ [h]
  | none => ∀ h l, e.waiters.head? = some h → s.lease h.index = some l → e.hasRoom l.mode = false

/-- Every wait queue's head is one that its resource cannot grant, unless the resource's counter is at the limit (R63). -/
def HeadsOk (s : State) : Prop := ∀ e ∈ s.directory, e.counter ≠ Config.tokenLimit → HeadBlocked s e

/-- The Lease Store and the Resource Directory at the completion of every item (R9, R10, R24, R48, R52, R63, R105). -/
def LeaseTableOk (s : State) : Prop := PoolOk s ∧ ClosedOk s ∧ TableOk s ∧ HeadsOk s

/-! Items. -/

/-- The arbiter grants the request `f` of interface `l`, which is of kind `k`, permitted, and of a suitable length, from a
port that is not IN_RESET (R163, R167, R168, R187). -/
def State.serves (s : State) (k : Kind) (l : Link) (f : Frame) : Prop :=
  s.grantedRequest = some (l, f) ∧ f.kind = k.code ∧ k.permitted l = true ∧ k.bodyFits f.body = true ∧ s.mute l = false

/-- The response to `f` with the header that R158 gives: the now at which the item was taken from `s`, and the epoch and
counts after it, in `t`. -/
def responseTo (s t : State) (l : Link) (f : Frame) (status : Status) (body : List Byte) : Response where
  status := status
  kind := f.kind
  epoch := t.epochOf l
  requestId := f.requestId
  now := s.clock.count
  lapsed := t.lapsedOf l
  notices := t.noticesOf l
  body := body

/-- In `t` the request `f` of interface `l`, taken in `s`, has been answered: the exchange is READY with the response, its
slot empty, and the replay record is that request and response (R158, R159). -/
def Answered (s t : State) (l : Link) (f : Frame) (status : Status) (body : List Byte) : Prop :=
  t.exchange l =
    { state := .ready
      slot := none
      buffer := some (responseTo s t l f status body)
      replay := some ⟨f.requestId, f.kind, f.crc, responseTo s t l f status body⟩ }

/-- The same for a request whose response does not enter the replay record, which is `replay` afterwards (R159). -/
def AnsweredUnrecorded (s t : State) (l : Link) (f : Frame) (replay : Option Replay) (status : Status)
    (body : List Byte) : Prop :=
  t.exchange l =
    { state := .ready, slot := none, buffer := some (responseTo s t l f status body), replay := replay }

/-! What a step leaves unchanged. -/

/-- The Lease Store, with its lists, is unchanged. -/
def SameStore (s t : State) : Prop :=
  t.records = s.records ∧ t.freePool = s.freePool ∧ t.closedOrder = s.closedOrder ∧ t.deadlines = s.deadlines

/-- The lease table is unchanged: the Store, the port contexts and the directory. -/
def SameTable (s t : State) : Prop := SameStore s t ∧ t.ports = s.ports ∧ t.directory = s.directory

/-- The Lease Clock and the Sync Discipline are unchanged. -/
def SameTime (s t : State) : Prop := t.clock = s.clock ∧ t.sync = s.sync

/-- The interfaces are unchanged but for their exchanges and the alert set. -/
def SameInterfaces (s t : State) : Prop :=
  (∀ p : Port, t.clients[p] = { s.clients[p] with exchange := t.clients[p].exchange }) ∧
    t.management = { s.management with exchange := t.management.exchange, alerts := t.management.alerts }

/-- The exchanges of every interface but `l` are unchanged. -/
def OtherExchanges (l : Link) (s t : State) : Prop := ∀ m, m ≠ l → t.exchange m = s.exchange m

/-- nRESET, the Expiry Unit's offer and the queue of commands are unchanged. -/
def SamePins (s t : State) : Prop := t.nReset = s.nReset ∧ t.offer = s.offer ∧ t.pending = s.pending

/-- What every request item of interface `l` does and leaves alone, whatever its kind: the pointer names its requester, the
other exchanges, and everything of the interfaces but exchanges and alerts, stay (R168, R169). -/
def ItemFrame (l : Link) (s t : State) : Prop :=
  t.arbiter = requesterOf l ∧ OtherExchanges l s t ∧ SameInterfaces s t ∧ SamePins s t

/-- An item of interface `l` that changes nothing but its own exchange and the pointer. -/
def OnlyAnswers (l : Link) (s t : State) : Prop :=
  ItemFrame l s t ∧ SameTable s t ∧ SameTime s t ∧ t.lines = s.lines ∧ t.management.alerts = s.management.alerts

/-- The records other than those of `touched` are unchanged. -/
def OtherRecords (touched : List Index) (s t : State) : Prop := ∀ j : Index, j ∉ touched → t.records[j] = s.records[j]

/-- The entries of resources other than `r` are unchanged. -/
def OtherEntries (r : Nat) (s t : State) : Prop := ∀ q : Nat, q ≠ r → t.entry q = s.entry q

/-- The records that promotion on a resource may change: those that wait for it and the one whose upgrade is pending
(R57). -/
def State.queueOf (s : State) (r : Nat) : List Index :=
  match s.entry r with
  | some e => e.upgrade.toList.map Handle.index ++ e.waiters.map Handle.index
  | none => []

/-- The guard line of a resource, as a list. -/
def State.lineOfResource (s : State) (r : Nat) : List LineNo :=
  match s.entry r with
  | some e => e.settings.guardLine.toList
  | none => []

/-- The guard lines other than those of `touched` are unchanged. -/
def OtherLines (touched : List LineNo) (s t : State) : Prop := ∀ n : LineNo, n ∉ touched → t.lines[n] = s.lines[n]

/-- The item that executes command `c` answers the request `f` of interface `l` and changes nothing else. -/
def RepliesOnly (c : Instr) (l : Link) (f : Frame) (s : State) (status : Status) (body : List Byte) : Prop :=
  ∃ t, exec c s = .next t ∧ Answered s t l f status body ∧ OnlyAnswers l s t

/-! Requests. -/

/-- The row of the table that executes the requests of a kind. -/
def Kind.step : Kind → Instr
  | .openSession => .openSession
  | .leave => .leave
  | .claim => .claim
  | .renew => .renew
  | .release => .release
  | .upgrade => .upgrade
  | .downgrade => .downgrade
  | .leaseStatus => .leaseStatus
  | .fetchNotices => .fetchNotices
  | .acknowledge => .acknowledge
  | .query => .query
  | .validate => .validate
  | .declare => .declare
  | .amend => .amend
  | .retire => .retire
  | .revoke => .revoke
  | .setQuota => .setQuota
  | .portReset => .portReset
  | .clearAll => .clearAll
  | .clockSetup => .clockSetup
  | .clockStart => .clockStart
  | .clockHold => .clockHold
  | .clockResume => .clockResume
  | .discipline => .discipline
  | .deviceStatus => .deviceStatus
  | .portStatus => .portStatus
  | .ackAlerts => .ackAlerts

/-- A claim is grantable now by R45, read clause by clause. -/
def GrantableNow (e : Entry) (m : Mode) : Prop :=
  e.upgrade = none ∧ e.waiters = [] ∧
    match m with
    | .exclusive => e.state = .vacant
    | .shared => e.state = .vacant ∨ (e.state = .shared ∧ e.holders.length < e.settings.maxSharers)

/-- A CLAIM whose fields are in range by R43, with its mode and its wait. -/
def ClaimInRange (a : ClaimArgs) (m : Mode) (w : Wait) : Prop :=
  a.mode = some m ∧ a.wait = some w ∧ 1 ≤ a.term ∧ a.term ≤ Config.maxTerm ∧
    match w with
    | .no => True
    | .ticks n => 1 ≤ n ∧ n ≤ Config.maxTerm
    | .indefinite => True

/-- Port `p` has a live record of resource `r` at index `i` (R48). -/
def LiveAt (s : State) (p : Port) (r : Nat) (i : Index) : Prop :=
  ∃ l, s.lease i = some l ∧ l.port = p ∧ l.resource = r ∧ l.phase.isLive = true

/-- A CLAIM passes checks 1 to 9 of R46 on a resource whose entry is `e`. -/
def ClaimPasses (s : State) (p : Port) (a : ClaimArgs) (m : Mode) (w : Wait) (e : Entry) : Prop :=
  s.clock.state ≠ .stopped ∧ s.entry a.resource = some e ∧ (m = .shared → e.settings.sharing = true) ∧
    ClaimInRange a m w ∧ (∀ i, ¬ LiveAt s p a.resource i) ∧ s.ports[p].live ≠ s.ports[p].quota ∧
    (GrantableNow e m → e.counter ≠ Config.tokenLimit) ∧ (¬ GrantableNow e m → w ≠ .no) ∧
    (¬ GrantableNow e m → e.waiters.length < e.settings.maxWaiters)

/-! What happens to a record and to its resource. -/

/-- The deadline list of `t` is that of `s` with record `i` at deadline `d`, or without it (R88 to R90). -/
def DeadlineMoved (i : Index) (d : Option Nat) (s t : State) : Prop :=
  ∀ x : DeadlineItem, x ∈ t.deadlines ↔ (x.index = i ∧ d = some x.deadline) ∨ (x.index ≠ i ∧ x ∈ s.deadlines)

/-- The record of index `i` is freed: FREE with its tag advanced, its index at the tail of the free pool, out of the deadline
list (R7). -/
def Freed (i : Index) (s t : State) : Prop :=
  t.records[i] = ⟨s.records[i].tag + 1, none⟩ ∧ OtherRecords [i] s t ∧ t.freePool = s.freePool ++ [i] ∧
    DeadlineMoved i none s t

/-- The live lease `l` of record `i` becomes CLOSED for a reason: token, granted-at time and the other fields kept, the
CLOSED flag added, at the tail of the closed order, out of the deadline list, with its owner's counts (R11, R97). -/
def ClosedFor (i : Index) (l : Lease) (reason : CloseReason) (s t : State) : Prop :=
  t.records[i] =
      ⟨s.records[i].tag,
        some { l with phase := .closed l.phase.grant reason, flags := { l.flags with closed := true } }⟩ ∧
    OtherRecords [i] s t ∧ t.freePool = s.freePool ∧ t.closedOrder = s.closedOrder ++ [i] ∧ DeadlineMoved i none s t ∧
    t.ports =
      s.ports.set l.port
        { s.ports[l.port] with
          live := s.ports[l.port].live - 1
          closed := s.ports[l.port].closed + 1
          notices := s.ports[l.port].notices + (if l.flags.any then 0 else 1) }

/-- A handle leaves the holder list or the wait queue of entry `e`, which is VACANT if no holder is left; exclusive end is
reported where the EXCLUSIVE holder left (R24, R25, R26, R55). -/
def LeavesResource (h : Handle) (e : Entry) (s t : State) : Prop :=
  t.entry e.resource =
      some { e with
        state := if e.holders.filter (fun x => x != h) = [] then .vacant else e.state
        holders := e.holders.filter (fun x => x != h)
        upgrade := if e.upgrade = some h then none else e.upgrade
        waiters := e.waiters.filter (fun x => x != h) } ∧
    OtherEntries e.resource s t ∧
    (∀ n, e.settings.guardLine = some n →
      t.lines[n] =
        if e.state = .exclusive ∧ h ∈ e.holders then (s.lines[n]).exclusiveEnd s.clock.count else s.lines[n]) ∧
    OtherLines e.settings.guardLine.toList s t ∧ t.management.alerts = s.management.alerts ∧ SameTime s t

/-- Promotion follows when the record of a handle leaves entry `e`: it was a holder or the head of the queue (R57). -/
def LeavingPromotes (h : Handle) (l : Lease) (e : Entry) : Prop :=
  l.phase.isHolder = true ∨ (e.upgrade = none ∧ e.waiters.head? = some h)

/-- `t` has the lease table, the guard lines and the alerts of `u`. -/
def SameOutcome (u t : State) : Prop :=
  SameTable u t ∧ t.lines = u.lines ∧ t.management.alerts = u.management.alerts

/-- Record `i` is freed with its port: it leaves the closed order, or the holder list or wait queue of its resource, on which
promotion then runs; its owner's counts follow, and no lapsed-unseen count changes (R7, R8, R42; the place of the promotion is
DEDUCED, log entry 17). -/
def FreedWithPort (i : Index) (s t : State) : Prop :=
  ∃ l u, s.lease i = some l ∧ Freed i s u ∧ SameTime s u ∧ SameTime s t ∧
    u.ports =
      s.ports.set l.port
        { s.ports[l.port] with
          live := s.ports[l.port].live - (if l.phase.isLive then 1 else 0)
          closed := s.ports[l.port].closed - (if l.phase.isLive then 0 else 1)
          notices := s.ports[l.port].notices - (if l.flags.any then 1 else 0) } ∧
    (l.phase.isLive = false →
      u.closedOrder = s.closedOrder.erase i ∧ u.directory = s.directory ∧ u.lines = s.lines ∧
        u.management.alerts = s.management.alerts ∧ SameOutcome u t) ∧
    (l.phase.isLive = true →
      u.closedOrder = s.closedOrder ∧
        ∃ e, s.entry l.resource = some e ∧ LeavesResource (s.handle i) e s u ∧ SameOutcome (u.promote l.resource) t)

/-- Records are freed with their port one after another, each on the state that those before it have left (R8, R42). -/
inductive FreedInTurn : List Index → State → State → Prop
  /-- No record is left. -/
  | done (s : State) : FreedInTurn [] s s
  /-- The first record is freed before the rest. -/
  | next (i : Index) (is : List Index) (s u t : State) :
    FreedWithPort i s u → FreedInTurn is u t → FreedInTurn (i :: is) s t

/-- The indices of the records that port `p` owns, in ascending order. -/
def State.recordsOf (s : State) (p : Port) : List Index :=
  (List.finRange 512).filter (fun i => (s.lease i).any (fun l => l.port == p))

/-- The records of port `p` are freed in ascending order, with their promotions: its indices join the tail of the free pool
in that order and its tags advance; every other record keeps its tag and its owner, and one that is GRACE or CLOSED is
unchanged. With the lease table whole, the directory, the guard lines, the records and lists of the Store, the contexts of the
other ports and TOKEN_LIMIT are as freeing one record after another leaves them (R8, R22, R42; log entry 17). -/
def PortFreed (p : Port) (s t : State) : Prop :=
  t.freePool = s.freePool ++ s.recordsOf p ∧
    (∀ i l, s.lease i = some l → l.port = p → t.records[i] = ⟨s.records[i].tag + 1, none⟩) ∧
    (∀ i, s.lease i = none → t.records[i] = s.records[i]) ∧
    (∀ i l, s.lease i = some l → l.port ≠ p →
      ∃ m, t.records[i] = ⟨s.records[i].tag, some m⟩ ∧ m.port = l.port ∧ m.resource = l.resource ∧ m.term = l.term ∧
        m.renewals = l.renewals ∧ m.clientTag = l.clientTag ∧
        (l.phase.isClosed = true ∨ l.phase.isGrace = true → m = l)) ∧
    (TableOk s →
      ∃ u, FreedInTurn (s.recordsOf p) s u ∧ SameStore u t ∧ t.directory = u.directory ∧ t.lines = u.lines ∧
        (∀ q : Port, q ≠ p → t.ports[q] = u.ports[q]) ∧
        t.management.alerts.tokenLimit = u.management.alerts.tokenLimit)

/-- The context of port `p` is 0 in every count, its quota kept, and the other contexts change only as their records do: quotas
and lapsed-unseen counts stay (R22). -/
def PortEmptied (p : Port) (s t : State) : Prop :=
  t.ports[p] = ⟨s.ports[p].quota, 0, 0, 0, 0⟩ ∧
    ∀ q : Port, q ≠ p →
      t.ports[q].quota = s.ports[q].quota ∧ t.ports[q].lapsed = s.ports[q].lapsed ∧ t.ports[q].live = s.ports[q].live ∧
        t.ports[q].closed = s.ports[q].closed

/-- PORT_RESET is posted for port `p`; of the other alerts only TOKEN_LIMIT may have been posted, by a promotion (R135). -/
def PortResetPosted (p : Port) (s t : State) : Prop :=
  t.management.alerts =
      { s.management.alerts with
        portReset := s.management.alerts.portReset.set p true
        tokenLimit := t.management.alerts.tokenLimit } ∧
    (t.management.alerts.tokenLimit = s.management.alerts.tokenLimit ∨
      ∃ r, t.management.alerts.tokenLimit = some r ∧ s.entry r ≠ none)

/-! The bytes on a link, and the layouts of Chapter 11, read from its tables. -/

/-- The bytes that a transaction shifts out over its spans, of which `clocked` were clocked in each: the span's own bytes, as
far as they were clocked, and its filler after them (R153, R154; log entry 12). -/
def bytesOut (shifts : List Shift) (clocked : List Nat) : List Byte :=
  (shifts.zip clocked).flatMap
    (fun x => x.1.head.take x.2 ++ List.replicate (x.2 - x.1.head.length) x.1.fill)

/-- Link `y` is link `x`, but a transaction under way, unless device reset fell upon it, does nothing at its end and shifts
out `fill` from now on. -/
def LinkCut (fill : Byte) (x y : LinkState) : Prop :=
  y.shiftedOut = x.shiftedOut ∧ (x.transaction = none → y.transaction = none) ∧
    ∀ tr, x.transaction = some tr →
      (tr.abandoned = true → y.transaction = some tr) ∧
        (tr.abandoned = false →
          y.transaction = some { tr with atEnd := .nothing, shifts := tr.shifts ++ [⟨[], fill⟩] })

/-- Bytes laid out field after field; a field is its size and its value, which stands low byte first (R184). -/
def laidOut (fields : List (Nat × Nat)) : List Byte :=
  fields.flatMap (fun f => (List.range f.1).map (fun k => BitVec.ofNat 8 (f.2 / 256 ^ k)))

/-- The value of a byte of flags, bit 0 first (section 11.3). -/
def bitsValue : List Bool → Nat
  | [] => 0
  | b :: bs => (if b then 1 else 0) + 2 * bitsValue bs

/-- The value of a handle: bits 0 to 8 the index, bits 9 to 15 the tag (section 11.3). -/
def Handle.value (h : Handle) : Nat := h.index.val + 512 * h.tag.val

/-- The code of a record state (Table 11-6). -/
def LeasePhase.value : LeasePhase → Nat
  | .waiting _ => 1
  | .held _ _ _ => 2
  | .grace _ _ => 3
  | .closed _ _ => 4

/-- The code of a mode (Table 11-6). -/
def Mode.value : Mode → Nat
  | .shared => 0
  | .exclusive => 1

/-- The code of a close reason (Table 11-6). -/
def CloseReason.value : CloseReason → Nat
  | .lapsed => 1
  | .waitExpired => 2
  | .revoked => 3
  | .retired => 4

/-- The code of an entry state (Table 11-6). -/
def EntryState.value : EntryState → Nat
  | .vacant => 1
  | .shared => 2
  | .exclusive => 3

/-- The code of a clock state (Table 11-6). -/
def ClockState.value : ClockState → Nat
  | .stopped => 0
  | .running => 1
  | .held => 2

/-- The code of a discipline state (Table 11-6). -/
def DisciplineState.value : DisciplineState → Nat
  | .off => 0
  | .acquiring => 1
  | .tracking => 2
  | .holdover => 3

/-- The code of a guard line state (Table 11-6). -/
def LineState.value : LineState → Nat
  | .unbound => 0
  | .clear _ => 1
  | .gapWait _ _ => 2
  | .asserted _ => 3

/-- The code of a session state (Table 11-6). -/
def Session.value : Session → Nat
  | .offline => 0
  | .online => 1
  | .inReset => 2

/-- The code of an exchange state (Table 11-6). -/
def ExchangeState.value : ExchangeState → Nat
  | .idle => 0
  | .pending => 1
  | .ready => 2
  | .collected => 3

/-- The token of a lease that carries one, else 0 (Table 1-2, R188). -/
def Lease.tokenValue (l : Lease) : Nat := (l.phase.grant.map Grant.token).getD 0

/-- The close reason's code of a lease that has one, else 0 (Table 1-2, R188). -/
def Lease.reasonValue (l : Lease) : Nat := (l.phase.reason.map CloseReason.value).getD 0

/-- The client tag of a lease that has one, else 0 (R1, R188). -/
def Lease.clientTagValue (l : Lease) : Nat := (l.clientTag.map BitVec.toNat).getD 0

/-- The value of a set of notice flags (Table 11-6). -/
def NoticeFlags.value (f : NoticeFlags) : Nat := bitsValue [f.granted, f.upgraded, f.warning, f.closed]

/-- A trim as a number of two bytes in two's complement (R184). -/
def trimValue (t : Int) : Nat := (t % 65536).toNat

/-- The lease-status record (Table 11-8, R18). -/
def leaseStatusLayout (h : Handle) (l : Lease) : List Byte :=
  laidOut
    [(2, h.value), (1, l.phase.value), (1, l.port.val), (2, l.resource), (1, l.mode.value), (4, l.term),
      (1, bitsValue
        [l.phase.grant.isSome, l.phase.deadline.isSome, l.clientTag.isSome, l.phase.reason.isSome]),
      (4, l.tokenValue), (6, (l.phase.grant.map Grant.grantedAt).getD 0),
      (6, l.phase.deadline.getD 0), (2, l.renewals), (1, bitsValue [l.phase.upgradePending]), (4, l.clientTagValue),
      (1, l.reasonValue), (1, l.flags.value)]

/-- The notice entry of the record of an index (Table 11-9, R123). -/
def noticeLayout (s : State) (i : Index) : List Byte :=
  match s.lease i with
  | some l =>
    laidOut
      [(2, (s.handle i).value), (1, l.flags.value), (1, l.phase.value), (2, l.resource), (1, l.mode.value),
        (1, bitsValue
          [l.phase.grant.isSome, l.phase.deadline.isSome, l.phase.reason.isSome, l.clientTag.isSome]),
        (4, l.tokenValue), (6, l.phase.deadline.getD 0), (1, l.reasonValue), (4, l.clientTagValue)]
  | none => []

/-- The entry block (Table 11-10). -/
def entryLayout (e : Entry) : List Byte :=
  laidOut
    [(2, e.resource), (1, e.state.value),
      (1, bitsValue [e.settings.sharing, e.settings.guardLine.isSome, e.upgrade.isSome]), (1, e.settings.maxSharers),
      (4, e.settings.minTerm), (4, e.settings.maxTerm), (2, e.settings.grace), (1, e.settings.maxWaiters),
      (1, (e.settings.guardLine.map Fin.val).getD 0), (2, e.settings.guardGap), (4, e.counter)]

/-- The holder entry of a handle in a holder list, whose record is not FREE (Table 11-10). -/
def holderLayout (s : State) (h : Handle) : List Byte :=
  match s.lease h.index with
  | some l =>
    laidOut
      [(1, l.port.val), (1, l.mode.value), (4, l.tokenValue), (1, bitsValue [l.phase.isGrace]), (2, h.value)]
  | none => laidOut [(7, 0), (2, h.value)]

/-- The alert block (section 11.5). -/
def alertLayout (a : AlertSet) : List Byte :=
  let ports := (List.finRange 8).map (fun p => a.portReset[p])
  laidOut
    [(1, bitsValue [a.tablePressure, a.tokenLimit.isSome, a.syncLost, a.syncAcquired, ports.contains true]),
      (2, a.tokenLimit.getD 0), (1, bitsValue ports)]

/-- The number of records in a state, FREE for `none` (R180). -/
def State.recordsIn (s : State) (state : Option Nat) : Nat :=
  (List.finRange 512).countP (fun i => (s.lease i).map (fun l => l.phase.value) == state)

/-- The body of DEVICE-STATUS answered OK (Table 11-11, R180). -/
def deviceStatusLayout (s : State) : List Byte :=
  laidOut
      [(1, s.clock.state.value), (6, s.clock.count), (2, s.clock.divisor), (2, trimValue s.clock.trimSet),
        (2, trimValue s.clock.trimInUse), (1, s.sync.state.value), (1, bitsValue [s.sync.origin.isSome]),
        (2, s.recordsIn none), (2, s.recordsIn (some 1)), (2, s.recordsIn (some 2)), (2, s.recordsIn (some 3)),
        (2, s.recordsIn (some 4)), (2, s.freePool.length), (2, s.deadlines.length), (2, s.directory.length)]
    ++ laidOut ((List.finRange 16).map (fun n => (1, s.lines[n].state.value))) ++ alertLayout s.management.alerts

/-- The body of PORT-STATUS answered OK (Table 11-11, R181). -/
def portStatusLayout (s : State) (p : Port) : List Byte :=
  laidOut
    [(1, p.val), (1, s.clients[p].session.value), (1, s.clients[p].epoch.toNat),
      (1, s.clients[p].exchange.state.value), (2, s.ports[p].quota), (2, s.ports[p].live), (2, s.ports[p].closed),
      (2, s.ports[p].notices), (1, s.ports[p].lapsed)]

/-- The body of NOT_HELD for a lease as it stands (Table 11-11, R71). -/
def notHeldLayout (l : Lease) : List Byte :=
  laidOut
    [(1, l.phase.value), (1, bitsValue [l.phase.deadline.isSome, l.phase.reason.isSome]),
      (6, l.phase.deadline.getD 0), (1, l.reasonValue)]

/-! The entries of an ACKNOWLEDGE. -/

/-- One entry of an ACKNOWLEDGE from port `p`: its result `r` and the state `t` it leaves (R125, R126). -/
def Acknowledged (p : Port) (e : AckEntry) (s : State) (r : List Byte) (t : State) : Prop :=
  let h := e.handle
  let named := NoticeFlags.decode e.flags
  (s.resolve (.client p) h = none → r = [1, 0, 0, 0] ∧ t = s) ∧
    ∀ l, s.resolve (.client p) h = some l →
      let cleared := named.inter l.flags
      let left := l.flags.minus named
      (cleared.any = false → r = [2, 0, 1, l.flags.code] ∧ t = s) ∧
      (cleared.any = true → cleared.closed = false →
        r = [0, cleared.code, 1, left.code] ∧ t.records[h.index] = ⟨h.tag, some { l with flags := left }⟩ ∧
          OtherRecords [h.index] s t ∧
          t = { s with records := t.records, deadlines := t.deadlines, ports := t.ports } ∧
          DeadlineMoved h.index l.phase.deadline s t ∧
          t.ports =
            s.ports.set p
              { s.ports[p] with notices := s.ports[p].notices + (if left.any then 1 else 0) - 1 }) ∧
      (l.phase.isClosed = true → cleared.closed = true →
        r = [0, cleared.code, 0, 0] ∧ Freed h.index s t ∧
          t =
            { s with
              records := t.records
              freePool := t.freePool
              closedOrder := s.closedOrder.erase h.index
              deadlines := t.deadlines
              ports :=
                s.ports.set p
                  { s.ports[p] with
                    closed := s.ports[p].closed - 1
                    notices := s.ports[p].notices - 1 } })

/-- The entries of an ACKNOWLEDGE from port `p`, one after another, with their results in order (R125). -/
inductive AcknowledgedAll (p : Port) : List AckEntry → State → List Byte → State → Prop
  /-- No entry is left. -/
  | done (s : State) : AcknowledgedAll p [] s [] s
  /-- The first entry acts on the state before the rest. -/
  | entry (e : AckEntry) (es : List AckEntry) (s u t : State) (r rs : List Byte) :
    Acknowledged p e s r u → AcknowledgedAll p es u rs t → AcknowledgedAll p (e :: es) s (r ++ rs) t

/-- CLAIM is refused with a status and a body: the first of the ten checks of R46 that fails, and what R47 puts into the
answer. -/
inductive ClaimRefusal (s : State) (p : Port) (a : ClaimArgs) : Status → List Byte → Prop
  /-- Check 1. -/
  | clockStopped : s.clock.state = .stopped → ClaimRefusal s p a .clockStopped []
  /-- Check 2. -/
  | noResource : s.clock.state ≠ .stopped → s.entry a.resource = none → ClaimRefusal s p a .noResource []
  /-- Check 3. -/
  | modeRefused (e : Entry) :
    s.clock.state ≠ .stopped → s.entry a.resource = some e → a.mode = some .shared → e.settings.sharing = false →
      ClaimRefusal s p a .modeRefused []
  /-- Check 4. -/
  | badArgument (e : Entry) :
    s.clock.state ≠ .stopped → s.entry a.resource = some e → (a.mode = some .shared → e.settings.sharing = true) →
      (∀ m w, ¬ ClaimInRange a m w) → ClaimRefusal s p a .badArgument []
  /-- Check 5; the port's live record on the resource is the one at `i`. -/
  | already (e : Entry) (m : Mode) (w : Wait) (i : Index) (l : Lease) :
    s.clock.state ≠ .stopped → s.entry a.resource = some e → (m = .shared → e.settings.sharing = true) →
      ClaimInRange a m w → s.lease i = some l → LiveAt s p a.resource i → (∀ j, LiveAt s p a.resource j → j = i) →
        ClaimRefusal s p a .already ((s.handle i).bytes ++ [l.phase.code])
  /-- Check 6. -/
  | quota (e : Entry) (m : Mode) (w : Wait) :
    s.clock.state ≠ .stopped → s.entry a.resource = some e → (m = .shared → e.settings.sharing = true) →
      ClaimInRange a m w → (∀ i, ¬ LiveAt s p a.resource i) → s.ports[p].live = s.ports[p].quota →
        ClaimRefusal s p a .quota (leBytes 2 s.ports[p].quota)
  /-- Check 7. -/
  | exhausted (e : Entry) (m : Mode) (w : Wait) :
    s.clock.state ≠ .stopped → s.entry a.resource = some e → (m = .shared → e.settings.sharing = true) →
      ClaimInRange a m w → (∀ i, ¬ LiveAt s p a.resource i) → s.ports[p].live ≠ s.ports[p].quota →
        GrantableNow e m → e.counter = Config.tokenLimit → ClaimRefusal s p a .exhausted (leBytes 2 a.resource)
  /-- Check 8. -/
  | conflict (e : Entry) (m : Mode) :
    s.clock.state ≠ .stopped → s.entry a.resource = some e → (m = .shared → e.settings.sharing = true) →
      ClaimInRange a m .no → (∀ i, ¬ LiveAt s p a.resource i) → s.ports[p].live ≠ s.ports[p].quota →
        ¬ GrantableNow e m → ClaimRefusal s p a .conflict [e.state.code, byteOf e.holders.length]
  /-- Check 9. -/
  | queueFull (e : Entry) (m : Mode) (w : Wait) :
    s.clock.state ≠ .stopped → s.entry a.resource = some e → (m = .shared → e.settings.sharing = true) →
      ClaimInRange a m w → (∀ i, ¬ LiveAt s p a.resource i) → s.ports[p].live ≠ s.ports[p].quota →
        ¬ GrantableNow e m → w ≠ .no → e.settings.maxWaiters ≤ e.waiters.length →
          ClaimRefusal s p a .queueFull [byteOf e.waiters.length]
  /-- Check 10. -/
  | tableFull (e : Entry) (m : Mode) (w : Wait) :
    ClaimPasses s p a m w e → s.freePool = [] → s.closedOrder = [] → ClaimRefusal s p a .tableFull []

/-- What a refusal of CLAIM posts (R13, R47, R49). -/
def refusalAlerts (a : ClaimArgs) (status : Status) (alerts : AlertSet) : AlertSet :=
  if status = .exhausted then { alerts with tokenLimit := some a.resource }
  else if status = .tableFull then { alerts with tablePressure := true }
  else alerts

/-- A GRANTED claim on record `i`, whose tag is `tag`, as R6 and R50 fill it and its entry `e`. -/
def ClaimGrantedOn (p : Port) (a : ClaimArgs) (m : Mode) (e : Entry) (i : Index) (tag : Tag) (s t : State) : Prop :=
  t.records[i] =
      ⟨tag, some ⟨p, a.resource, m, e.settings.clamp a.term, 0, a.clientTag, ⟨false, false, false, false⟩,
        .held ⟨e.counter + 1, s.clock.count⟩ (satAdd s.clock.count (e.settings.clamp a.term)) false⟩⟩ ∧
    DeadlineMoved i (some (satAdd s.clock.count (e.settings.clamp a.term))) s t ∧
    t.entry a.resource =
      some { e with
        state := match m with | .shared => .shared | .exclusive => .exclusive
        counter := e.counter + 1
        holders := e.holders ++ [⟨i, tag⟩] } ∧
    (∀ n, e.settings.guardLine = some n →
      t.lines[n] =
        if m = .exclusive then (s.lines[n]).exclusiveBegin e.settings.guardGap s.clock.count else s.lines[n]) ∧
    OtherLines e.settings.guardLine.toList s t

/-- A QUEUED claim on record `i`, whose tag is `tag`, as R6 and R53 fill it and its entry `e`. -/
def ClaimQueuedOn (p : Port) (a : ClaimArgs) (m : Mode) (w : Wait) (e : Entry) (i : Index) (tag : Tag) (s t : State) :
    Prop :=
  t.records[i] =
      ⟨tag, some ⟨p, a.resource, m, e.settings.clamp a.term, 0, a.clientTag, ⟨false, false, false, false⟩,
        .waiting (waitDeadline s.clock.count w)⟩⟩ ∧
    DeadlineMoved i (waitDeadline s.clock.count w) s t ∧
    t.entry a.resource = some { e with waiters := e.waiters ++ [⟨i, tag⟩] } ∧ t.lines = s.lines

end Sys2Proof.Machine
end

