-- ==== Sys2Proof/Certificates/Slice0/Obligations.lean ====
section
/-!
DEFINITION. The statements about the part. Each docstring names the rule or the section of spec/ it rests on; what rests on
a choice of the model says so and names the log entry.
-/
open Sys2Proof Sys2Proof.Machine

/-! The queue of commands. -/

/-- One step is the command at the front of the queue, executed on the state with the queue's rest. Every command is answered
with a next state in every state and none touches the queue: the part raises no fault and refuses nothing (00 section 2.4, 95).
That a command which cannot occur in a state is answered with that state unchanged is the model's choice (log entry 2), and so
is the one REFCLK cycle of a step on an empty queue (log entry 6). -/
def Obligations.StepRunsFrontCommand : Prop :=
  ∀ (c : Instr) (s : State),
    (∀ rest, s.pending = c :: rest → step s = exec c { s with pending := rest }) ∧
      (∃ t, exec c s = .next t ∧ t.pending = s.pending) ∧ (s.pending = [] → step s = .next s.refclk)

/-! Time. -/

/-- How the count of `s` may stand in `t`: unchanged; one higher, from RUNNING and below the largest count, where a tick ends;
or 0, where the part is reset. -/
def CountMoves (ends resets : Prop) (s t : State) : Prop :=
  t.clock.count = s.clock.count ∨
    (ends ∧ s.clock.state = .running ∧ s.nReset = true ∧ s.clock.count < Config.maxCount ∧
      t.clock.count = s.clock.count + 1) ∨
    (resets ∧ t.clock.count = 0)

/-- The commands at which a tick can end. -/
def EndsTick (c : Instr) : Prop := c = .tickEnd ∨ c = .holdTakesEffect ∨ ∃ k, c = .syncEdge k

/-- The commands of device reset. -/
def ResetsDevice (c : Instr) : Prop := c = .nresetFall ∨ c = .nresetRise ∨ ∃ high, c = .powerOn high

/-- The count never decreases; it changes only in RUNNING, by one, at a tick end, and returns to 0 only at device reset
(08 section 8.2, R138): so for every command and for every step, the REFCLK cycle of a step on an empty queue among them, which
ends a tick in step 15 only. That such a step is a REFCLK cycle is the model's choice (log entry 6). -/
def Obligations.CountOnlyRises : Prop :=
  (∀ (c : Instr) (s t : State), exec c s = .next t → CountMoves (EndsTick c) (ResetsDevice c) s t) ∧
    ∀ s t : State, step s = .next t →
      CountMoves
        ((∃ c rest, s.pending = c :: rest ∧ EndsTick c) ∨ (s.pending = [] ∧ s.clock.phase.step = 15))
        (∃ c rest, s.pending = c :: rest ∧ ResetsDevice c) s t

/-- The discipline after a hit, as the table of R148 gives it, its window closed. -/
def afterHit (d : SyncDiscipline) : SyncDiscipline :=
  match d.state with
  | .off => { d with window := none }
  | .acquiring =>
    if d.hits + 1 = 2 then ⟨.tracking, d.origin, 0, 0, none⟩ else ⟨.acquiring, d.origin, d.hits + 1, 0, none⟩
  | .tracking => ⟨.tracking, d.origin, d.hits, 0, none⟩
  | .holdover =>
    if d.hits + 1 = 2 then ⟨.tracking, d.origin, 0, 0, none⟩ else ⟨.holdover, d.origin, d.hits + 1, 0, none⟩

/-- The discipline after a miss, as the table of R149 gives it, its window closed. -/
def afterMiss (d : SyncDiscipline) : SyncDiscipline :=
  match d.state with
  | .off => { d with window := none }
  | .acquiring => ⟨.acquiring, none, 0, 0, none⟩
  | .tracking =>
    if d.misses + 1 = 3 then ⟨.holdover, d.origin, 0, 0, none⟩ else ⟨.tracking, d.origin, 0, d.misses + 1, none⟩
  | .holdover =>
    if d.misses + 1 = 8 then ⟨.acquiring, none, 0, 0, none⟩ else ⟨.holdover, d.origin, 0, d.misses + 1, none⟩

/-- A miss of `d` discards its origin: in ACQUIRING, and at the eighth in a row in HOLDOVER (R149). -/
def DiscardsOrigin (d : SyncDiscipline) : Prop :=
  d.state = .acquiring ∨ (d.state = .holdover ∧ d.misses + 1 = 8)

/-- The half-width of the window that opens in a state (the table of R145); an OFF discipline has no origin and no window. -/
def halfWidthOf : DisciplineState → Nat
  | .off => 0
  | .acquiring => 5
  | .tracking => 2
  | .holdover => 5

/-- The window at hand in a tick that begins at `count`: that of the mark at the tick's end, where one lies there, and otherwise
the one still open about the mark at its beginning (R146; log entry 8). -/
def windowAtHand (d : SyncDiscipline) (count : Nat) : Option SyncWindow :=
  match d.origin with
  | none => none
  | some o =>
    if o ≤ count ∧ count < Config.maxCount ∧ (count + 1 - o) % 1000 = 0 then some ⟨count + 1, halfWidthOf d.state⟩
    else d.window.filter (fun w => w.mark == count)

/-- The window of the mark just passed closes in the tick in progress, so the tick's end finds it a miss (R149). -/
def windowCloses (s : State) : Bool := s.sync.window.any (fun w => w.mark == s.clock.count && decide (w.halfWidth < 16))

/-- The alert set after a miss of `d`: the third in a row in TRACKING posts SYNC_LOST (R149). -/
def alertsAfterMiss (a : AlertSet) (d : SyncDiscipline) : AlertSet :=
  { a with syncLost := a.syncLost || decide (d.state = .tracking ∧ d.misses + 1 = 3) }

/-- The discipline as the tick in progress ends, a window that closes in it missed. -/
def syncAtTickEnd (s : State) : SyncDiscipline := if windowCloses s then afterMiss s.sync else s.sync

/-- The alert set as the tick in progress ends, a window that closes in it missed. -/
def alertsAtTickEnd (s : State) : AlertSet :=
  if windowCloses s then alertsAfterMiss s.management.alerts s.sync else s.management.alerts

/-- A tick end with no hold requested: the count rises unless it stands at the largest, the trim position advances, trim in
use takes trim set at position 0, the next tick begins at step 0, corrected where its position calls for it (R137), every line
compares its assert at with the new count, and nothing of the lease table or the interfaces changes (08 sections 8.1 and 8.2, 06
section 6.5). The discipline keeps its state, origin and counts, unless a window closed without a hit in the tick, which is a
miss (R149); in the tick that begins, the window of the mark at its end is at hand, of the half-width of the discipline's state,
or else the one still open about the mark at its beginning (08 section 8.4, R145, R146). That TICK_END alone carries all of this
is the model's choice (log entry 4), and so is that a window is at hand from the beginning of its mark's tick (log entry 8). -/
def Obligations.TickEndAdvancesTime : Prop :=
  ∀ s : State, s.nReset = true → s.clock.state = .running → s.clock.holdRequested = false →
    ∃ t, exec .tickEnd s = .next t ∧
      t.clock.count = (if s.clock.count < Config.maxCount then s.clock.count + 1 else s.clock.count) ∧
      t.clock.trimPosition = (s.clock.trimPosition + 1) % 1024 ∧
      t.clock.trimInUse = (if t.clock.trimPosition = 0 then s.clock.trimSet else s.clock.trimInUse) ∧
      t.clock.state = .running ∧ t.clock.holdRequested = false ∧ t.clock.divisor = s.clock.divisor ∧
      t.clock.trimSet = s.clock.trimSet ∧ t.clock.phase.step = 0 ∧ t.clock.phase.cycle = 0 ∧
      t.clock.phase.corrected = trimCorrects t.clock.trimInUse.natAbs t.clock.trimPosition ∧
      (∀ n : LineNo, t.lines[n] = (s.lines[n]).compare t.clock.count) ∧
      SameTable s t ∧ SamePins s t ∧ t.arbiter = s.arbiter ∧ t.clients = s.clients ∧
      t.management = { s.management with alerts := alertsAtTickEnd s } ∧
      t.sync = { syncAtTickEnd s with window := windowAtHand (syncAtTickEnd s) t.clock.count }

/-- The number of REFCLK cycles of the tick that begins in `c`: 16 times A, one less or one more where step 0 carries a
correction (08 section 8.1). -/
def tickCycles (c : LeaseClock) : Nat :=
  if c.phase.corrected then if 0 < c.trimInUse then 16 * c.divisor - 1 else 16 * c.divisor + 1 else 16 * c.divisor

/-- A tick that no SYNC edge ends or restarts lasts 16 times A REFCLK cycles, corrected by one: no cycle before the last changes
the count, and the last is the tick end, whether or not a window closes in the tick (08 sections 8.1 and 8.4). -/
def Obligations.TickLastsItsCycles : Prop :=
  ∀ s : State, s.nReset = true → s.clock.state = .running → s.clock.phase.step = 0 → s.clock.phase.cycle = 0 →
    1 ≤ s.clock.divisor → (s.clock.phase.corrected = true → 0 < s.clock.trimInUse → 2 ≤ s.clock.divisor) →
      (∀ k, k < tickCycles s.clock → (Nat.iterate State.refclk k s).clock.count = s.clock.count) ∧
        Nat.iterate State.refclk (tickCycles s.clock) s = s.tickEnd

/-- A trim period of magnitude m corrects exactly m of its 1024 ticks, at most one step in each, and position 1023 always
where m is above 0 (08 section 8.1, R137). -/
def Obligations.TrimCorrectsExactly : Prop :=
  ∀ m : Nat, m ≤ 255 →
    (List.range 1024).countP (trimCorrects m) = m ∧ (0 < m → trimCorrects m 1023 = true) ∧
      ∀ k, trimCorrects m k = true → m * (k + 1) / 1024 = m * k / 1024 + 1

/-- The first tick end after a CLOCK-HOLD item, commanded as HOLD_TAKES_EFFECT or as TICK_END, raises the count, reaches the
guard lines, holds the clock at the new count with the trim position advanced, and writes HELD_AT with that count as the
management port's response and replay record (08 section 8.3). The discipline is suspended: an open window is abandoned without a
miss, and state, origin and counts are kept (08 section 8.4, R150); a window that closed in the tick before its end has been
missed (R149). That either command is that tick end is the model's choice (log entries 4 and 8). -/
def Obligations.HoldTakesEffectAtTickEnd : Prop :=
  ∀ (c : Instr) (s : State) (f : Frame), c = .holdTakesEffect ∨ c = .tickEnd →
    s.nReset = true → s.clock.state = .running → s.clock.holdRequested = true → s.management.held = some f →
      let count := if s.clock.count < Config.maxCount then s.clock.count + 1 else s.clock.count
      let r : Response := ⟨.heldAt, f.kind, 0, f.requestId, count, 0, 0, leBytes 6 count⟩
      ∃ t, exec c s = .next t ∧
        t.clock =
          { s.clock with
            state := .held
            holdRequested := false
            count := count
            trimPosition := (s.clock.trimPosition + 1) % 1024
            phase := ⟨0, 0, false⟩ } ∧
        t.sync = { syncAtTickEnd s with window := none } ∧
        (∀ n : LineNo, t.lines[n] = (s.lines[n]).compare count) ∧ SameTable s t ∧ SamePins s t ∧
        t.arbiter = s.arbiter ∧ t.clients = s.clients ∧
        t.management =
          { s.management with
            alerts := alertsAtTickEnd s
            held := none
            exchange :=
              { s.management.exchange with
                state := .ready, buffer := some r, replay := some ⟨f.requestId, f.kind, f.crc, r⟩ } }

/-- The clock after a tick end from `c`, which completes a hold that is requested and otherwise begins the next tick, with its
trim correction if its position calls for one (R136 to R138, R143). -/
def clockAfterTick (c : LeaseClock) : LeaseClock :=
  let count := if c.count < Config.maxCount then c.count + 1 else c.count
  let position := (c.trimPosition + 1) % 1024
  let trim := if position = 0 then c.trimSet else c.trimInUse
  if c.holdRequested then
    { c with state := .held, holdRequested := false, count := count, trimPosition := position, phase := ⟨0, 0, false⟩ }
  else
    { c with
      count := count
      trimPosition := position
      trimInUse := trim
      phase := ⟨0, 0, trimCorrects trim.natAbs position⟩ }

/-- What a tick end that leaves `t` does to the management interface of `s`, whose alert set is then `alerts`: HELD_AT with the
new count is written for a CLOCK-HOLD whose hold it completes (R143). -/
def HoldAnswered (alerts : AlertSet) (s t : State) : Prop :=
  (s.clock.holdRequested = false → t.management = { s.management with alerts := alerts }) ∧
    ∀ f, s.clock.holdRequested = true → s.management.held = some f →
      let r : Response := ⟨.heldAt, f.kind, 0, f.requestId, t.clock.count, 0, 0, laidOut [(6, t.clock.count)]⟩
      t.management =
        { s.management with
          alerts := alerts
          held := none
          exchange :=
            { s.management.exchange with
              state := .ready, buffer := some r, replay := some ⟨f.requestId, f.kind, f.crc, r⟩ } }

/-- The first edge in ACQUIRING with no origin ends the tick in progress, with every effect of a tick end, sets the mark origin
to the count after it and both counts to 0, and completes a hold that is requested (08 section 8.4). That the command names the
phase step of the edge, and runs REFCLK on to it, is the model's choice (log entry 7). -/
def Obligations.FirstEdgeSetsOrigin : Prop :=
  ∀ (k : Fin 16) (s : State), s.nReset = true → s.clock.state = .running → s.sync.state = .acquiring →
    s.sync.origin = none → s.clock.phase.step ≤ k →
      ∃ t, exec (.syncEdge k) s = .next t ∧ t.clock = clockAfterTick s.clock ∧
        t.sync = ⟨.acquiring, some t.clock.count, 0, 0, none⟩ ∧
        (∀ n : LineNo, t.lines[n] = (s.lines[n]).compare t.clock.count) ∧ HoldAnswered s.management.alerts s t ∧
        t.management.alerts = s.management.alerts ∧ t.management.link = s.management.link ∧ SameTable s t ∧
        SamePins s t ∧ t.arbiter = s.arbiter ∧ t.clients = s.clients

/-- An edge with an origin set, or in a discipline that is not ACQUIRING. Within the open window of a mark it is a hit: early, it
ends the tick that ends at the mark, which completes a hold that is requested; late, it restarts the tick after the mark at step
0 with no tick end and no trim correction, and a hold stays requested. The counts and the state follow the table of R148, and
the passage from HOLDOVER to TRACKING posts SYNC_ACQUIRED. An edge after the window has closed finds its miss counted: where the
miss keeps the origin the edge does no more, and where it discards it this edge ends the tick and sets a new one (R147). Any
other edge changes no count and no state (08 sections 8.3 and 8.4). That the command names the phase step of the edge, and
runs REFCLK on to it, is the model's choice (log entries 7 and 8). -/
def Obligations.EdgeInWindowIsHit : Prop :=
  ∀ (k : Fin 16) (s : State), s.nReset = true → s.clock.state = .running →
    (s.sync.origin ≠ none ∨ s.sync.state ≠ .acquiring) → s.clock.phase.step ≤ k →
      let reached : LeaseClock :=
        { s.clock with phase := if s.clock.phase.step < k then ⟨k, 0, false⟩ else s.clock.phase }
      let acquired : AlertSet :=
        { s.management.alerts with
          syncAcquired :=
            s.management.alerts.syncAcquired || decide (s.sync.state = .holdover ∧ s.sync.hits + 1 = 2) }
      let lost : AlertSet := alertsAfterMiss s.management.alerts s.sync
      ∃ t, exec (.syncEdge k) s = .next t ∧ SameTable s t ∧ SamePins s t ∧ t.clients = s.clients ∧
        t.arbiter = s.arbiter ∧
        (s.sync.window = none →
          t.sync = s.sync ∧ t.clock = reached ∧ t.lines = s.lines ∧ t.management = s.management) ∧
        ∀ w, s.sync.window = some w → s.sync.origin ≠ none → s.sync.state ≠ .off →
          (w.mark = s.clock.count + 1 → 16 ≤ k.val + w.halfWidth → s.clock.count < Config.maxCount →
            t.clock = clockAfterTick s.clock ∧ t.clock.count = w.mark ∧ t.sync = afterHit s.sync ∧
              (∀ n : LineNo, t.lines[n] = (s.lines[n]).compare w.mark) ∧ HoldAnswered acquired s t ∧
              t.management.alerts = acquired) ∧
          (w.mark = s.clock.count → k.val ≤ w.halfWidth →
            t.clock = { s.clock with phase := ⟨0, 0, false⟩ } ∧ t.sync = afterHit s.sync ∧ t.lines = s.lines ∧
              t.management = { s.management with alerts := acquired }) ∧
          (w.mark = s.clock.count → s.clock.phase.step.val ≤ w.halfWidth → w.halfWidth < k.val →
            (¬ DiscardsOrigin s.sync →
              t.sync = afterMiss s.sync ∧ t.clock = reached ∧ t.lines = s.lines ∧
                t.management = { s.management with alerts := lost }) ∧
            (DiscardsOrigin s.sync →
              t.clock = clockAfterTick s.clock ∧ t.sync = ⟨.acquiring, some t.clock.count, 0, 0, none⟩ ∧
                (∀ n : LineNo, t.lines[n] = (s.lines[n]).compare t.clock.count) ∧
                HoldAnswered s.management.alerts s t ∧ t.management.alerts = s.management.alerts)) ∧
          (w.mark ≠ s.clock.count → (w.mark ≠ s.clock.count + 1 ∨ k.val + w.halfWidth < 16) →
            t.sync = s.sync ∧ t.clock = reached ∧ t.lines = s.lines ∧ t.management = s.management)

/-- A window that closes without a hit is a miss, at the end of step W of the tick after the mark. The counts, the origin and
the state change by the table of R149; the third miss in a row in TRACKING posts SYNC_LOST, and no other miss posts; neither
the phase nor the count is changed by it: the clock stands at the start of step W + 1 of the same tick (08 section 8.4). The
REFCLK cycle that is the last of step W does the same. That the command runs REFCLK on to the end of step W is the model's choice
(log entry 8). -/
def Obligations.ClosedWindowIsMiss : Prop :=
  ∀ (s : State) (w : SyncWindow), s.nReset = true → s.clock.state = .running → s.sync.window = some w →
    w.mark = s.clock.count → s.clock.phase.step.val ≤ w.halfWidth → w.halfWidth ≤ 5 →
      ∃ t, exec .syncWindowMiss s = .next t ∧
        t.clock = { s.clock with phase := ⟨Fin.ofNat 16 (w.halfWidth + 1), 0, false⟩ } ∧ t.sync = afterMiss s.sync ∧
        t.management = { s.management with alerts := alertsAfterMiss s.management.alerts s.sync } ∧
        SameTable s t ∧ SamePins s t ∧ t.lines = s.lines ∧ t.arbiter = s.arbiter ∧ t.clients = s.clients ∧
        (s.clock.phase.step.val = w.halfWidth → s.clock.phase.corrected = false →
          s.clock.divisor ≤ s.clock.phase.cycle + 1 → s.refclk = t)

/-! The Expiry Unit and the guard lines. -/

/-- An IDLE Expiry Unit offers the head of the deadline list when its deadline is at or below the count, and nothing
otherwise; an OFFERED one keeps its item, whatever the list has become (05 section 5.3). That the offer waits for its command
is the model's choice (log entry 5). -/
def Obligations.ExpiryUnitOffersReachedHead : Prop :=
  ∀ s : State, s.nReset = true →
    (∀ x rest, s.offer = none → s.deadlines = x :: rest → x.deadline ≤ s.clock.count →
      exec .expiryOffer s = .next { s with offer := some x.index }) ∧
    (∀ x rest, s.offer = none → s.deadlines = x :: rest → s.clock.count < x.deadline →
      exec .expiryOffer s = .next s) ∧
    (s.deadlines = [] → exec .expiryOffer s = .next s) ∧ (s.offer ≠ none → exec .expiryOffer s = .next s)

/-- What a bound line does. Exclusive begin asserts a CLEAR line whose gap has passed and makes it wait otherwise; exclusive
end drops an ASSERTED line and records the time, and clears a waiting one whose time stays (R113, R114). A waiting line whose
assert at is at or below the count becomes ASSERTED with its output high, and GAP_ASSERT changes nothing else (R115). A
begin after an end never asserts before the gap has passed (R116; all of 06 section 6.5). That the gap's sum is held at the
largest count here too is the model's reading (log entry 21), and that GAP_ASSERT is this one comparison its choice (log
entry 4). -/
def Obligations.GuardLineFollowsHolding : Prop :=
  (∀ (gap now : Nat) (g : GuardLine) (r : Nat),
    (g.state = .clear r → satAdd g.lastDeassertedAt gap ≤ now →
      g.exclusiveBegin gap now = ⟨.asserted r, g.lastDeassertedAt⟩) ∧
    (g.state = .clear r → now < satAdd g.lastDeassertedAt gap →
      g.exclusiveBegin gap now = ⟨.gapWait r (satAdd g.lastDeassertedAt gap), g.lastDeassertedAt⟩) ∧
    (g.state = .asserted r → g.exclusiveEnd now = ⟨.clear r, now⟩) ∧
    (∀ a, g.state = .gapWait r a → g.exclusiveEnd now = ⟨.clear r, g.lastDeassertedAt⟩) ∧
    (∀ later count, g.state = .asserted r → count < satAdd now gap →
      (((g.exclusiveEnd now).exclusiveBegin gap later).compare count).state.output = true →
        satAdd now gap ≤ later)) ∧
    ∀ (n : LineNo) (s : State), s.nReset = true →
      ∃ t, exec (.gapAssert n) s = .next t ∧
        (∀ r a, s.lines[n].state = .gapWait r a → a ≤ s.clock.count →
          t.lines[n] = ⟨.asserted r, s.lines[n].lastDeassertedAt⟩ ∧ t.guardOutput n = true) ∧
        ((∀ r a, s.lines[n].state = .gapWait r a → s.clock.count < a) → t = s) ∧
        (∀ m, m ≠ n → t.lines[m] = s.lines[m]) ∧ t = { s with lines := t.lines }

/-! Links. -/

/-- What a command byte decides on a link that carries no transaction. In device reset, or where chip select fell in it (which
an operand of the command says: the model's choice, log entry 13), the transaction is ignored and shifts out filler. While the
port's reset line is high it shifts out OFFLINE-IGNORED and does nothing. Otherwise 0x5A is answered BUSY in PENDING, the frame
to be dropped, and ACCEPTED in the other states, the frame to be taken; 0xC3 copies the response frame in READY and COLLECTED
and shifts NOT_READY in the other states; any other byte is ignored with filler. During the command byte itself the part has
shifted out filler (09 section 9.1, 10 section 10.7, 11 section 11.1). That the level of the reset line as the byte completes
decides, even if the line was high earlier inside the byte, is the model's choice too (log entry 25). -/
def Obligations.CommandByteDecides : Prop :=
  ∀ (l : Link) (b : Byte) (inReset : Bool) (s : State), (s.link l).transaction = none →
    ∃ tr, exec (.commandByte l b inReset) s = .next (s.setLink l ⟨some tr, [0xFF#8]⟩) ∧
      (s.nReset = false ∨ inReset = true → tr.atEnd = .nothing ∧ tr.shifts = [⟨[], 0xFF#8⟩]) ∧
      (s.nReset = true → inReset = false → s.lineHigh l = true → tr.atEnd = .nothing ∧ tr.shifts = [⟨[], 0xF0#8⟩]) ∧
      (s.nReset = true → inReset = false → s.lineHigh l = false →
        (b = 0x5A#8 → (s.exchange l).state = .pending →
          tr.selection = .submit ∧ tr.atEnd = .nothing ∧ tr.shifts = [⟨[0xB1#8], 0xFF#8⟩]) ∧
        (b = 0x5A#8 → (s.exchange l).state ≠ .pending →
          tr.selection = .submit ∧ tr.atEnd = .takeFrame ∧ tr.shifts = [⟨[0x6E#8], 0xFF#8⟩]) ∧
        (b = 0xC3#8 → (s.exchange l).state = .idle ∨ (s.exchange l).state = .pending →
          tr.selection = .collect ∧ tr.atEnd = .nothing ∧ tr.shifts = [⟨[0x9C#8], 0xFF#8⟩]) ∧
        (∀ r, b = 0xC3#8 → (s.exchange l).state = .ready ∨ (s.exchange l).state = .collected →
          (s.exchange l).buffer = some r →
            tr.selection = .collect ∧ tr.atEnd = .markCollected ∧ tr.shifts = [⟨r.encode, 0xFF#8⟩]) ∧
        (b ≠ 0x5A#8 → b ≠ 0xC3#8 → tr.selection = .other ∧ tr.atEnd = .nothing ∧ tr.shifts = [⟨[], 0xFF#8⟩]))

/-- The frame that bytes spell, field by field (11 section 11.2). -/
def frameOf (bytes : List Byte) : Frame where
  kind := bytes.getD 0 0
  epoch := bytes.getD 1 0
  requestId := bytes.getD 2 0
  body := (bytes.drop 4).take (bytes.getD 3 0).toNat
  crc := BitVec.ofNat 16 (leNat ((bytes.drop (4 + (bytes.getD 3 0).toNat)).take 2))

/-- The replay record of interface `l` matches a frame: request id, kind and CRC, and on a client port the current epoch (09
sections 9.2 and 9.6). -/
def Replays (s : State) (l : Link) (f : Frame) (r : Response) : Prop :=
  (∀ p, l = .client p → f.epoch = s.clients[p].epoch) ∧
    (s.exchange l).replay = some ⟨f.requestId, f.kind, f.crc, r⟩

/-- A response built by the port layer (09 section 9.2). -/
def portLayerResponse (s : State) (l : Link) (status : Status) (kind id : Byte) (body : List Byte) : Response :=
  ⟨status, kind, s.epochOf l, id, s.clock.count, s.lapsedOf l, s.noticesOf l, body⟩

/-- What a SUBMIT leaves but for the exchange of its own interface: the transaction has ended, and nothing else changed. -/
def OnlySubmits (l : Link) (s t : State) : Prop :=
  OtherExchanges l s t ∧ SameTable s t ∧ SameTime s t ∧ SamePins s t ∧ t.lines = s.lines ∧ t.arbiter = s.arbiter ∧
    (∀ m, m ≠ l → t.link m = s.link m) ∧ (t.link l).transaction = none ∧
    t.management.alerts = s.management.alerts ∧ t.management.held = s.management.held ∧
    ∀ p : Port,
      t.clients[p] = { s.clients[p] with exchange := t.clients[p].exchange, link := t.clients[p].link }

/-- At the end of a SUBMIT whose frame is taken, the port-layer checks are applied in order: length, CRC, replay record,
OFFLINE, epoch; a frame that passes them waits in the request slot, PENDING, the previous response discarded. The replay
record is not changed (09 section 9.2, 11 section 11.7). The part has then shifted out filler during the command byte, the
acceptance byte ACCEPTED during the first byte of the frame, and filler after it (09 section 9.1, R153; 11 section 11.1; how the
bytes are counted out is the model's choice, log entry 12). -/
def Obligations.SubmitChecksFrameInOrder : Prop :=
  ∀ (l : Link) (bytes : List Byte) (clocked : List Nat) (s : State) (tr : Transaction),
    (s.link l).transaction = some tr → tr.selection = .submit → tr.atEnd = .takeFrame →
      let len := (bytes.getD 3 0).toNat
      let f := frameOf bytes
      let lengthBad := bytes.length < 6 ∨ 64 < len ∨ bytes.length ≠ 6 + len
      let crcBad := f.crc ≠ crc16 (bytes.take (4 + len))
      let offline := ∃ p, l = .client p ∧ f.kind ≠ 0x01#8 ∧ s.clients[p].session = .offline
      let stale :=
        ∃ p, l = .client p ∧ f.kind ≠ 0x01#8 ∧ s.clients[p].session ≠ .offline ∧ f.epoch ≠ s.clients[p].epoch
      let x := s.exchange l
      ∃ t, exec (.submit l bytes clocked) s = .next t ∧ OnlySubmits l s t ∧
        (t.link l).shiftedOut = (s.link l).shiftedOut ++ bytesOut tr.shifts clocked ∧
        (∀ n, clocked = [n + 1] → tr.shifts = [⟨[0x6E#8], 0xFF#8⟩] → (s.link l).shiftedOut = [0xFF#8] →
          (t.link l).shiftedOut = 0xFF#8 :: 0x6E#8 :: List.replicate n 0xFF#8) ∧
        (lengthBad →
          t.exchange l =
            { x with
              state := .ready
              buffer :=
                some (portLayerResponse s l .frameError (bytes.getD 0 0) (bytes.getD 2 0) [0x01#8]) }) ∧
        (¬ lengthBad → crcBad →
          t.exchange l =
            { x with state := .ready, buffer := some (portLayerResponse s l .frameError f.kind f.requestId [0x02#8]) }) ∧
        (¬ lengthBad → ¬ crcBad → ∀ r, Replays s l f r →
          t.exchange l = { x with state := .ready, buffer := some r }) ∧
        (¬ lengthBad → ¬ crcBad → (∀ r, ¬ Replays s l f r) → offline →
          t.exchange l =
            { x with state := .ready, buffer := some (portLayerResponse s l .offline f.kind f.requestId []) }) ∧
        (¬ lengthBad → ¬ crcBad → (∀ r, ¬ Replays s l f r) → ¬ offline → stale →
          t.exchange l =
            { x with state := .ready, buffer := some (portLayerResponse s l .staleSession f.kind f.requestId []) }) ∧
        (¬ lengthBad → ¬ crcBad → (∀ r, ¬ Replays s l f r) → ¬ offline → ¬ stale →
          t.exchange l = { x with state := .pending, slot := some f, buffer := none })

/-- A transaction that is to do nothing at its end changes nothing but its link: a SUBMIT answered BUSY or cut short, a COLLECT
that found nothing to collect, and a transaction with another first byte or with none complete. What it has shifted out after
its command byte is recorded on the link (09 section 9.1; log entry 12). -/
def Obligations.TransactionsWithoutEffect : Prop :=
  ∀ (l : Link) (bytes : List Byte) (clocked : List Nat) (s : State),
    (∀ tr, (s.link l).transaction = some tr → tr.atEnd = .nothing →
      let ended : LinkState := ⟨none, (s.link l).shiftedOut ++ bytesOut tr.shifts clocked⟩
      (tr.selection = .submit → exec (.submit l bytes clocked) s = .next (s.setLink l ended)) ∧
      (tr.selection = .collect → exec (.collect l clocked) s = .next (s.setLink l ended)) ∧
      (tr.selection = .other → exec (.ignoredTransaction l clocked) s = .next (s.setLink l ended))) ∧
    ((s.link l).transaction = none → exec (.ignoredTransaction l clocked) s = .next (s.setLink l ⟨none, []⟩)) ∧
    ∀ x, SameTable s (s.setLink l x) ∧ (∀ m, (s.setLink l x).exchange m = s.exchange m) ∧
      (∀ m, m ≠ l → (s.setLink l x).link m = s.link m) ∧ (s.setLink l x).link l = x

/-- A whole COLLECT in READY or COLLECTED, of n bytes after the command byte: the part shifts out filler during the command
byte, then the first n bytes of the response frame, filler after its end, and the exchange is COLLECTED with its response, its
replay record and everything else as before (09 section 9.1, 11 section 11.1). -/
def Obligations.CollectShiftsResponse : Prop :=
  ∀ (l : Link) (n : Nat) (s : State) (r : Response), s.nReset = true → (s.link l).transaction = none →
    s.lineHigh l = false → (s.exchange l).state = .ready ∨ (s.exchange l).state = .collected →
    (s.exchange l).buffer = some r →
      ∃ u t, exec (.commandByte l 0xC3#8 false) s = .next u ∧ exec (.collect l [n]) u = .next t ∧
        (t.link l).shiftedOut = 0xFF#8 :: r.encode.take n ++ List.replicate (n - r.encode.length) 0xFF#8 ∧
        t.exchange l = { s.exchange l with state := .collected } ∧ OnlySubmits l s t

/-! Frames. -/

/-- The bytes before the CRC of the request frame of a kind, epoch, request id and body (11 section 11.2). -/
def requestHeader (kind epoch id : Byte) (body : List Byte) : List Byte :=
  [kind, epoch, id, BitVec.ofNat 8 body.length] ++ body

/-- Reading and writing request frames agree, both ways: bytes pass the length and CRC checks as a frame exactly where its body
has at most 64 bytes, its CRC is that of its header and body, and the bytes are header, body and the CRC low byte first (11
sections 11.2 and 11.7). Every 16-bit value is a handle, the index in bits 0 to 8 and the tag in bits 9 to 15, and writing and
reading handles agree both ways (11 section 11.3). -/
def Obligations.FramesAndHandlesRoundTrip : Prop :=
  (∀ (bytes : List Byte) (f : Frame),
    checkFrame bytes = .ok f ↔
      f.body.length ≤ 64 ∧ f.crc = crc16 (requestHeader f.kind f.epoch f.requestId f.body) ∧
        bytes =
          requestHeader f.kind f.epoch f.requestId f.body ++
            [f.crc.setWidth 8, (f.crc >>> 8).setWidth 8]) ∧
    (∀ h : Handle, h.encode < 65536 ∧ h.encode % 512 = h.index.val ∧ h.encode / 512 = h.tag.val ∧
      Handle.decode h.encode = h) ∧
    ∀ n : Nat, n < 65536 → (Handle.decode n).encode = n

/-! The engine takes a request. -/

/-- The arbiter grants the first requester that has an item, counting round the circle from the one after the pointer: none
that has an item stands nearer; and it grants one whenever the part is out of device reset, no reset item is pending and some
requester has an item (09 section 9.8, R168). -/
def Obligations.ArbiterServesInRotation : Prop :=
  ∀ s : State,
    (∀ r, s.granted = some r → s.nReset = true ∧ s.resetItemPort = none ∧ s.hasItem r = true ∧
      ∀ q, s.hasItem q = true →
        (r.position + 9 - s.arbiter.position) % 10 ≤ (q.position + 9 - s.arbiter.position) % 10) ∧
    (s.nReset = true → s.resetItemPort = none → ∀ q, s.hasItem q = true → s.granted ≠ none)

/-- Before any check of its own kind, a request that its interface may not send is answered NOT_PERMITTED, one of a permitted
kind whose body has the wrong length is answered BAD_ARGUMENT, and one whose code names no kind UNKNOWN_KIND; nothing else
changes. A client's OPEN does not enter the replay record (09 section 9.7, 11 section 11.7). A step of a kind that the arbiter
does not grant changes nothing, which is the model's choice (log entry 2). -/
def Obligations.KindAndLengthCheckedFirst : Prop :=
  ∀ (l : Link) (f : Frame) (s : State), s.grantedRequest = some (l, f) → s.mute l = false →
    (∀ k : Kind, f.kind = k.code → k.permitted l = false → RepliesOnly k.step l f s .notPermitted []) ∧
    (∀ k : Kind, f.kind = k.code → k.permitted l = true → k.bodyFits f.body = false →
      ∃ t, exec k.step s = .next t ∧ OnlyAnswers l s t ∧
        if k = .openSession then AnsweredUnrecorded s t l f (s.exchange l).replay .badArgument []
        else Answered s t l f .badArgument []) ∧
    ((∀ k : Kind, f.kind ≠ k.code) → RepliesOnly .unknownKind l f s .unknownKind []) ∧
    (∀ k : Kind, f.kind ≠ k.code → exec k.step s = .next s)

/-! Sessions. -/

/-- OPEN on an OFFLINE port makes it ONLINE with the epoch advanced, from 255 to 1, the lapsed-unseen count 0 and the replay
record absent, and is answered OPENED with the new epoch and the quota; on an ONLINE port it is answered SESSION_ACTIVE and
changes nothing (09 section 9.4, R161). -/
def Obligations.OpenStartsSession : Prop :=
  ∀ (p : Port) (f : Frame) (s : State), s.serves .openSession (.client p) f →
    let epoch : Byte := if s.clients[p].epoch = 0xFF#8 then 1 else s.clients[p].epoch + 1
    (s.clients[p].session = .offline →
      ∃ t, exec .openSession s = .next t ∧
        AnsweredUnrecorded s t (.client p) f none .opened (epoch :: leBytes 2 s.ports[p].quota) ∧
        t.clients[p] =
          { s.clients[p] with session := .online, epoch := epoch, exchange := t.clients[p].exchange } ∧
        t.ports = s.ports.set p { s.ports[p] with lapsed := 0 } ∧
        (∀ q, q ≠ p → t.clients[q] = s.clients[q]) ∧ t.management = s.management ∧ t.arbiter = .port p ∧
        SameStore s t ∧ t.directory = s.directory ∧ SameTime s t ∧ t.lines = s.lines ∧ SamePins s t) ∧
    (s.clients[p].session = .online →
      ∃ t, exec .openSession s = .next t ∧
        AnsweredUnrecorded s t (.client p) f (s.clients[p].exchange.replay) .sessionActive [s.clients[p].epoch] ∧
        OnlyAnswers (.client p) s t)

/-- LEAVE frees every record of the port in ascending order, each handle leaving its resource with exclusive end and promotion
where they follow, makes the port OFFLINE with its epoch, quota and lapsed-unseen count kept and its live, closed and notice
counts 0, and is answered LEFT with the numbers of live and CLOSED records freed (09 section 9.4, R162; 01 section 1.5, R8; 02
section 2.9, R42). That promotion runs as each record is freed is read from R42 (log entry 17). -/
def Obligations.LeaveEndsSession : Prop :=
  ∀ (p : Port) (f : Frame) (s : State), s.serves .leave (.client p) f →
    ∃ t, exec .leave s = .next t ∧ PortFreed p s t ∧
      Answered s t (.client p) f .left
        (laidOut
          [(2, s.countOf p (fun l => l.phase.isLive)), (2, s.countOf p (fun l => l.phase.isClosed))]) ∧
      t.clients[p] = { s.clients[p] with session := .offline, exchange := t.clients[p].exchange } ∧
      t.ports[p].quota = s.ports[p].quota ∧ t.ports[p].lapsed = s.ports[p].lapsed ∧
      (CountsOk s → t.ports[p] = ⟨s.ports[p].quota, 0, 0, 0, s.ports[p].lapsed⟩) ∧
      (∀ q, q ≠ p → t.clients[q] = s.clients[q]) ∧
      t.management = { s.management with alerts := t.management.alerts } ∧
      t.management.alerts = { s.management.alerts with tokenLimit := t.management.alerts.tokenLimit } ∧
      t.arbiter = .port p ∧ SameTime s t ∧ SamePins s t

/-! Claims. -/

/-- A CLAIM that fails a check of R46 is answered with the status and the body of R47 and changes no record, list or count;
EXHAUSTED posts TOKEN_LIMIT with the resource id, TABLE_FULL posts TABLE_PRESSURE, and the others post nothing (03 section
3.3). -/
def Obligations.ClaimRefusedChangesNothing : Prop :=
  ∀ (p : Port) (f : Frame) (s : State) (status : Status) (body : List Byte), s.serves .claim (.client p) f →
    ClaimRefusal s p (ClaimArgs.read f.body) status body →
      ∃ t, exec .claim s = .next t ∧ Answered s t (.client p) f status body ∧ ItemFrame (.client p) s t ∧
        SameTable s t ∧ SameTime s t ∧ t.lines = s.lines ∧
        t.management.alerts = refusalAlerts (ClaimArgs.read f.body) status s.management.alerts

/-- A CLAIM that passes its checks, is grantable now and finds the free pool not empty is granted at once on the record at
the pool's head, with the next token and the clamped term, the record joining the holders and the deadline list, an
EXCLUSIVE grant reporting exclusive begin, and the port's live count rising by one (03 section 3.4, 01 section 1.4). -/
def Obligations.ClaimGrantedAtOnce : Prop :=
  ∀ (p : Port) (f : Frame) (s : State) (m : Mode) (w : Wait) (e : Entry) (i : Index) (rest : List Index),
    s.serves .claim (.client p) f → EntryOk s e → s.lease i = none →
    let a := ClaimArgs.read f.body
    ClaimPasses s p a m w e → GrantableNow e m → s.freePool = i :: rest →
      ∃ t, exec .claim s = .next t ∧ ClaimGrantedOn p a m e i s.records[i].tag s t ∧ OtherRecords [i] s t ∧
        t.freePool = rest ∧ t.closedOrder = s.closedOrder ∧ OtherEntries a.resource s t ∧
        t.ports = s.ports.set p { s.ports[p] with live := s.ports[p].live + 1 } ∧ SameTime s t ∧
        t.management.alerts = s.management.alerts ∧ ItemFrame (.client p) s t ∧
        Answered s t (.client p) f .granted
          (laidOut
            [(2, (s.handle i).value), (4, e.counter + 1), (4, e.settings.clamp a.term),
              (6, satAdd s.clock.count (e.settings.clamp a.term))])

/-- A CLAIM that passes its checks, is not grantable now and finds the free pool not empty is queued WAITING on the record at
the pool's head, at the tail of the wait queue, with a wait deadline if its wait is a number of ticks; the entry's state,
holders and counter do not change (03 section 3.5). -/
def Obligations.ClaimQueued : Prop :=
  ∀ (p : Port) (f : Frame) (s : State) (m : Mode) (w : Wait) (e : Entry) (i : Index) (rest : List Index),
    s.serves .claim (.client p) f → s.lease i = none →
    let a := ClaimArgs.read f.body
    ClaimPasses s p a m w e → ¬ GrantableNow e m → s.freePool = i :: rest →
      ∃ t, exec .claim s = .next t ∧ ClaimQueuedOn p a m w e i s.records[i].tag s t ∧ OtherRecords [i] s t ∧
        t.freePool = rest ∧ t.closedOrder = s.closedOrder ∧ OtherEntries a.resource s t ∧
        t.ports = s.ports.set p { s.ports[p] with live := s.ports[p].live + 1 } ∧ SameTime s t ∧
        t.management.alerts = s.management.alerts ∧ ItemFrame (.client p) s t ∧
        Answered s t (.client p) f .queued
          (laidOut
            [(2, (s.handle i).value), (4, e.settings.clamp a.term), (1, e.waiters.length + 1),
              (1, bitsValue [(waitDeadline s.clock.count w).isSome]), (6, (waitDeadline s.clock.count w).getD 0)])

/-- A CLAIM that passes its checks with the free pool empty reclaims the oldest CLOSED record: it is freed, its tag advanced,
its owner's closed and notice counts lowered and its lapsed-unseen count raised up to 255, TABLE_PRESSURE is posted, and the
claim is granted or queued on it under the advanced tag (01 section 1.8, 12 section 12.5). -/
def Obligations.ClaimReclaimsOldestClosed : Prop :=
  ∀ (p : Port) (f : Frame) (s : State) (m : Mode) (w : Wait) (e : Entry) (i : Index) (rest : List Index) (old : Lease),
    s.serves .claim (.client p) f → EntryOk s e → s.lease i = some old → old.phase.isClosed = true →
    let a := ClaimArgs.read f.body
    let lost : PortContext :=
      { s.ports[old.port] with
        closed := s.ports[old.port].closed - 1
        notices := s.ports[old.port].notices - (if old.flags.any then 1 else 0)
        lapsed := min (s.ports[old.port].lapsed + 1) 255 }
    let ports := s.ports.set old.port lost
    ClaimPasses s p a m w e → s.freePool = [] → s.closedOrder = i :: rest →
      ∃ t, exec .claim s = .next t ∧ OtherRecords [i] s t ∧ t.freePool = [] ∧ t.closedOrder = rest ∧
        t.ports = ports.set p { ports[p] with live := ports[p].live + 1 } ∧ OtherEntries a.resource s t ∧
        SameTime s t ∧ t.management.alerts = { s.management.alerts with tablePressure := true } ∧
        ItemFrame (.client p) s t ∧
        (GrantableNow e m →
          ClaimGrantedOn p a m e i (s.records[i].tag + 1) s t ∧
            Answered s t (.client p) f .granted
              (laidOut
                [(2, (⟨i, s.records[i].tag + 1⟩ : Handle).value), (4, e.counter + 1), (4, e.settings.clamp a.term),
                  (6, satAdd s.clock.count (e.settings.clamp a.term))])) ∧
        (¬ GrantableNow e m →
          ClaimQueuedOn p a m w e i (s.records[i].tag + 1) s t ∧
            Answered s t (.client p) f .queued
              (laidOut
                [(2, (⟨i, s.records[i].tag + 1⟩ : Handle).value), (4, e.settings.clamp a.term), (1, e.waiters.length + 1),
                  (1, bitsValue [(waitDeadline s.clock.count w).isSome]), (6, (waitDeadline s.clock.count w).getD 0)]))

/-! Renewal, release and conversion. -/

/-- A RENEW that passes its checks is answered RENEWED on a HELD record and RENEWED_LATE on a GRACE one, which it returns to
HELD without WARNING: the deadline becomes now plus the term, which is the one given, clamped, or else the stored one; the
renewals count rises up to 65535; the token, the mode, a pending upgrade, the entry and the guard lines stay (04 section
4.2). -/
def Obligations.RenewMovesDeadline : Prop :=
  ∀ (p : Port) (f : Frame) (s : State) (l : Lease) (e : Entry) (g : Grant) (pending late : Bool),
    s.serves .renew (.client p) f →
    let h := readHandle f.body
    let given := readRenewTerm f.body
    s.clock.state ≠ .stopped → s.resolve (.client p) h = some l → s.entry l.resource = some e →
    (late = false ∧ (∃ d, l.phase = .held g d pending) ∨ late = true ∧ pending = false ∧ ∃ d, l.phase = .grace g d) →
    (∀ n, given = some n → 1 ≤ n ∧ n ≤ Config.maxTerm) →
      let term := match given with | some n => e.settings.clamp n | none => l.term
      let flags := { l.flags with warning := l.flags.warning && !late }
      let renewals := min (l.renewals + 1) 65535
      ∃ t, exec .renew s = .next t ∧
        t.records[h.index] =
          ⟨h.tag, some { l with
            term := term
            renewals := renewals
            flags := flags
            phase := .held g (satAdd s.clock.count term) pending }⟩ ∧
        OtherRecords [h.index] s t ∧ t.freePool = s.freePool ∧ t.closedOrder = s.closedOrder ∧
        DeadlineMoved h.index (some (satAdd s.clock.count term)) s t ∧ t.directory = s.directory ∧ t.lines = s.lines ∧
        t.ports[p].live = s.ports[p].live ∧ t.ports[p].closed = s.ports[p].closed ∧
        t.ports[p].notices =
          s.ports[p].notices + (if flags.any then 1 else 0) - (if l.flags.any then 1 else 0) ∧
        (∀ q, q ≠ p → t.ports[q] = s.ports[q]) ∧ SameTime s t ∧ t.management.alerts = s.management.alerts ∧
        ItemFrame (.client p) s t ∧
        Answered s t (.client p) f (if late then .renewedLate else .renewed)
          (laidOut [(2, h.value), (4, g.token), (4, term), (6, satAdd s.clock.count term), (2, renewals)])

/-- RENEW, RELEASE, UPGRADE and DOWNGRADE that fail a check are answered as their tables say and change nothing: BAD_HANDLE for
a handle that does not resolve, NOT_HELD or CLOSED_ALREADY by the record's state, BAD_ARGUMENT for a term, a wait code or a
mode that does not suit, CONFLICT for an UPGRADE that may not wait, MODE_REFUSED for a DOWNGRADE where sharing is not allowed
(04 sections 4.1 to 4.5). That an unlisted wait code is refused before a repeated UPGRADE is recognised is the
model's reading (log entry 22). -/
def Obligations.HandleRequestsRefused : Prop :=
  ∀ (p : Port) (f : Frame) (s : State),
    let h := readHandle f.body
    let refused := fun (c : Instr) (status : Status) (body : List Byte) =>
      ∃ t, exec c s = .next t ∧ Answered s t (.client p) f status body ∧ OnlyAnswers (.client p) s t
    (s.serves .renew (.client p) f →
      (s.clock.state = .stopped → refused .renew .clockStopped []) ∧
      (s.clock.state ≠ .stopped → s.resolve (.client p) h = none → refused .renew .badHandle []) ∧
      ∀ l, s.clock.state ≠ .stopped → s.resolve (.client p) h = some l →
        (∀ d, l.phase = .waiting d → refused .renew .notHeld (notHeldLayout l)) ∧
        (∀ g r, l.phase = .closed g r → refused .renew .closedAlready [r.code]) ∧
        (∀ n, l.phase.isHolder = true → readRenewTerm f.body = some n → (n < 1 ∨ Config.maxTerm < n) →
          refused .renew .badArgument [])) ∧
    (s.serves .release (.client p) f → s.resolve (.client p) h = none → refused .release .badHandle []) ∧
    (s.serves .upgrade (.client p) f →
      (s.resolve (.client p) h = none → refused .upgrade .badHandle []) ∧
      ∀ l, s.resolve (.client p) h = some l →
        (l.phase.isHeld = false → refused .upgrade .notHeld (notHeldLayout l)) ∧
        (l.phase.isHeld = true → (l.mode = .exclusive ∨ 1 < (byteAt f.body 2).toNat) →
          refused .upgrade .badArgument []) ∧
        ∀ e, l.phase.isHeld = true → l.mode = .shared → (byteAt f.body 2).toNat ≤ 1 → s.entry l.resource = some e →
          (l.phase.upgradePending = true → refused .upgrade .upgradePending (laidOut [(2, h.value), (1, e.holders.length)])) ∧
          (l.phase.upgradePending = false → e.holders ≠ [h] → e.upgrade ≠ none →
            refused .upgrade .conflict [byteOf e.holders.length, 1]) ∧
          (l.phase.upgradePending = false → e.holders ≠ [h] → e.upgrade = none → byteAt f.body 2 = 0 →
            refused .upgrade .conflict [byteOf e.holders.length, 0])) ∧
    (s.serves .downgrade (.client p) f →
      (s.resolve (.client p) h = none → refused .downgrade .badHandle []) ∧
      ∀ l, s.resolve (.client p) h = some l →
        (l.phase.isHolder = false → refused .downgrade .notHeld (notHeldLayout l)) ∧
        (l.phase.isHolder = true → l.mode = .shared → refused .downgrade .badArgument []) ∧
        ∀ e, l.phase.isHolder = true → l.mode = .exclusive → s.entry l.resource = some e →
          e.settings.sharing = false → refused .downgrade .modeRefused [])

/-- A RELEASE of a HELD, GRACE or WAITING record frees it and takes it out of its resource, an EXCLUSIVE holder's guard line
dropping; then promotion runs on the resource if it was a holder or the head of the queue; the answer is RELEASED with the
state the record had (03 section 3.7, 04 section 4.3). -/
def Obligations.ReleaseFreesLiveRecord : Prop :=
  ∀ (p : Port) (f : Frame) (s : State) (l : Lease) (e : Entry), s.serves .release (.client p) f →
    let h := readHandle f.body
    s.resolve (.client p) h = some l → l.phase.isLive = true → s.entry l.resource = some e → EntryOk s e →
      ∃ u t, exec .release s = .next t ∧ Freed h.index s u ∧ u.closedOrder = s.closedOrder ∧
        LeavesResource h e s u ∧
        u.ports =
          s.ports.set p
            { s.ports[p] with
              live := s.ports[p].live - 1
              notices := s.ports[p].notices - (if l.flags.any then 1 else 0) } ∧
        (LeavingPromotes h l e → SameOutcome (u.promote l.resource) t) ∧
        (¬ LeavingPromotes h l e → SameOutcome u t) ∧ SameTime s t ∧ ItemFrame (.client p) s t ∧
        Answered s t (.client p) f .released [l.phase.code]

/-- A RELEASE of a CLOSED record is answered CLOSED_ALREADY with its close reason and frees it: it leaves the closed order,
its owner's closed and notice counts follow, and no resource, guard line or alert changes (04 section 4.3, R73). -/
def Obligations.ReleaseDisposesOfClosedRecord : Prop :=
  ∀ (p : Port) (f : Frame) (s : State) (l : Lease) (g : Option Grant) (r : CloseReason),
    s.serves .release (.client p) f →
    let h := readHandle f.body
    s.resolve (.client p) h = some l → l.phase = .closed g r →
      ∃ t, exec .release s = .next t ∧ Freed h.index s t ∧ t.closedOrder = s.closedOrder.erase h.index ∧
        t.ports =
          s.ports.set p
            { s.ports[p] with
              closed := s.ports[p].closed - 1
              notices := s.ports[p].notices - (if l.flags.any then 1 else 0) } ∧
        t.directory = s.directory ∧ t.lines = s.lines ∧ t.management.alerts = s.management.alerts ∧ SameTime s t ∧
        ItemFrame (.client p) s t ∧ Answered s t (.client p) f .closedAlready [r.code]

/-- An UPGRADE of the only holder, HELD and SHARED, takes the next token at once and makes record and entry EXCLUSIVE, with
exclusive begin and the deadline kept, or is refused EXHAUSTED with TOKEN_LIMIT posted if the counter is at its limit (04
section 4.4). -/
def Obligations.UpgradeOfOnlyHolder : Prop :=
  ∀ (p : Port) (f : Frame) (s : State) (l : Lease) (e : Entry) (g : Grant) (d : Nat),
    s.serves .upgrade (.client p) f →
    let h := readHandle f.body
    s.resolve (.client p) h = some l → l.phase = .held g d false → l.mode = .shared → s.entry l.resource = some e →
    EntryOk s e → e.holders = [h] → (byteAt f.body 2).toNat ≤ 1 →
      (e.counter ≠ Config.tokenLimit →
        ∃ t, exec .upgrade s = .next t ∧
          t.records[h.index] =
            ⟨h.tag, some { l with mode := .exclusive, phase := .held ⟨e.counter + 1, s.clock.count⟩ d false }⟩ ∧
          OtherRecords [h.index] s t ∧ t.freePool = s.freePool ∧ t.closedOrder = s.closedOrder ∧
          DeadlineMoved h.index (some d) s t ∧ t.ports = s.ports ∧
          t.entry l.resource = some { e with state := .exclusive, counter := e.counter + 1 } ∧
          OtherEntries l.resource s t ∧
          (∀ n, e.settings.guardLine = some n →
            t.lines[n] = (s.lines[n]).exclusiveBegin e.settings.guardGap s.clock.count) ∧
          OtherLines e.settings.guardLine.toList s t ∧ t.management.alerts = s.management.alerts ∧ SameTime s t ∧
          ItemFrame (.client p) s t ∧
          Answered s t (.client p) f .upgraded
            (laidOut [(2, h.value), (4, e.counter + 1), (6, s.clock.count), (6, d)])) ∧
      (e.counter = Config.tokenLimit →
        ∃ t, exec .upgrade s = .next t ∧ SameTable s t ∧ t.lines = s.lines ∧ SameTime s t ∧
          t.management.alerts = { s.management.alerts with tokenLimit := some l.resource } ∧
          ItemFrame (.client p) s t ∧ Answered s t (.client p) f .exhausted (leBytes 2 l.resource))

/-- An UPGRADE with wait ALLOWED of one of several SHARED holders, no other upgrade pending, sets the record's upgrade-pending
flag and places the reference at the head of the wait queue, and changes nothing else (04 section 4.4, R76). -/
def Obligations.UpgradePlacesReference : Prop :=
  ∀ (p : Port) (f : Frame) (s : State) (l : Lease) (e : Entry) (g : Grant) (d : Nat),
    s.serves .upgrade (.client p) f →
    let h := readHandle f.body
    s.resolve (.client p) h = some l → l.phase = .held g d false → l.mode = .shared → s.entry l.resource = some e →
    e.holders ≠ [h] → e.upgrade = none → byteAt f.body 2 = 1 →
      ∃ t, exec .upgrade s = .next t ∧
        t.records[h.index] = ⟨h.tag, some { l with phase := .held g d true }⟩ ∧ OtherRecords [h.index] s t ∧
        t.freePool = s.freePool ∧ t.closedOrder = s.closedOrder ∧ DeadlineMoved h.index (some d) s t ∧
        t.ports = s.ports ∧ t.entry l.resource = some { e with upgrade := some h } ∧ OtherEntries l.resource s t ∧
        t.lines = s.lines ∧ t.management.alerts = s.management.alerts ∧ SameTime s t ∧ ItemFrame (.client p) s t ∧
        Answered s t (.client p) f .upgradePending (laidOut [(2, h.value), (1, e.holders.length)])

/-- A DOWNGRADE of an EXCLUSIVE holder, HELD or GRACE, makes record and entry SHARED with token, deadline and place kept,
drops the guard line, and then runs promotion on the resource (04 section 4.5, R80). -/
def Obligations.DowngradeOpensResource : Prop :=
  ∀ (p : Port) (f : Frame) (s : State) (l : Lease) (e : Entry), s.serves .downgrade (.client p) f →
    let h := readHandle f.body
    s.resolve (.client p) h = some l → l.phase.isHolder = true → l.mode = .exclusive → s.entry l.resource = some e →
    EntryOk s e → e.state = .exclusive → e.holders = [h] → e.settings.sharing = true →
      ∃ u t, exec .downgrade s = .next t ∧
        u.records[h.index] = ⟨h.tag, some { l with mode := .shared }⟩ ∧ OtherRecords [h.index] s u ∧
        u.freePool = s.freePool ∧ u.closedOrder = s.closedOrder ∧ DeadlineMoved h.index l.phase.deadline s u ∧
        u.ports = s.ports ∧ u.entry l.resource = some { e with state := .shared } ∧ OtherEntries l.resource s u ∧
        (∀ n, e.settings.guardLine = some n → u.lines[n] = (s.lines[n]).exclusiveEnd s.clock.count) ∧
        OtherLines e.settings.guardLine.toList s u ∧ u.management.alerts = s.management.alerts ∧ SameTime s u ∧
        SameOutcome (u.promote l.resource) t ∧ SameTime s t ∧ ItemFrame (.client p) s t ∧
        Answered s t (.client p) f .downgraded
          (laidOut [(2, h.value), (4, l.tokenValue), (1, l.phase.value), (6, l.phase.deadline.getD 0)])

/-! Promotion. -/

/-- Promotion of a queue without a pending upgrade grants the first n claims, in queue order and with consecutive tokens, each
a term from now and told by GRANTED, joining the tail of the holder list; it stops at an empty queue, at a head the resource
cannot grant, or at the token limit, which it posts (03 section 3.6, R59 to R62). -/
def Obligations.PromotionGrantsBatchFromHead : Prop :=
  ∀ (s : State) (r : Nat) (e : Entry), s.entry r = some e → EntryOk s e → e.upgrade = none →
    ∃ (n : Nat) (f : Entry), n ≤ e.waiters.length ∧ (s.promote r).entry r = some f ∧
      f = { e with
        state := f.state
        counter := e.counter + n
        waiters := e.waiters.drop n
        holders := e.holders ++ e.waiters.take n } ∧
      StateOk (s.promote r) f ∧
      (∀ k h l, k < n → e.waiters[k]? = some h → s.lease h.index = some l →
        (s.promote r).records[h.index] =
          ⟨h.tag, some { l with
            phase := .held ⟨e.counter + k + 1, s.clock.count⟩ (satAdd s.clock.count l.term) false
            flags := { l.flags with granted := true } }⟩) ∧
      OtherRecords ((e.waiters.take n).map Handle.index) s (s.promote r) ∧ OtherEntries r s (s.promote r) ∧
      (s.promote r).freePool = s.freePool ∧ (s.promote r).closedOrder = s.closedOrder ∧
      (∀ m, e.settings.guardLine = some m →
        (s.promote r).lines[m] =
          if f.state = .exclusive ∧ e.state ≠ .exclusive then
            (s.lines[m]).exclusiveBegin e.settings.guardGap s.clock.count
          else s.lines[m]) ∧
      OtherLines e.settings.guardLine.toList s (s.promote r) ∧
      (HeadBlocked (s.promote r) f ∨ Config.tokenLimit ≤ f.counter) ∧
      (HeadBlocked (s.promote r) f → (s.promote r).management = s.management) ∧
      (¬ HeadBlocked (s.promote r) f →
        (s.promote r).management =
          { s.management with alerts := { s.management.alerts with tokenLimit := some r } }) ∧
      SameTime s (s.promote r) ∧ SamePins s (s.promote r) ∧ (s.promote r).clients = s.clients ∧
      (s.promote r).arbiter = s.arbiter ∧
      ∀ p : Port, (s.promote r).ports[p].live = s.ports[p].live ∧ (s.promote r).ports[p].closed = s.ports[p].closed

/-- Promotion that finds a pending upgrade completes it if the upgrader is the only holder and a token is left: next token,
EXCLUSIVE, granted at now, UPGRADED told, the reference gone and exclusive begin reported. With other holders it does nothing,
and at the token limit it posts TOKEN_LIMIT and nothing else (03 section 3.6, R58, R61). -/
def Obligations.PromotionCompletesUpgrade : Prop :=
  ∀ (s : State) (r : Nat) (e : Entry) (h : Handle) (l : Lease) (g : Grant) (d : Nat) (u : Bool),
    s.entry r = some e → EntryOk s e → e.upgrade = some h → s.lease h.index = some l → l.phase = .held g d u →
      (e.holders ≠ [h] → s.promote r = s) ∧
      (e.holders = [h] → Config.tokenLimit ≤ e.counter →
        s.promote r =
          { s with
            management := { s.management with alerts := { s.management.alerts with tokenLimit := some r } } }) ∧
      (e.holders = [h] → e.counter < Config.tokenLimit →
        (s.promote r).records[h.index] =
            ⟨h.tag, some { l with
              mode := .exclusive
              phase := .held ⟨e.counter + 1, s.clock.count⟩ d false
              flags := { l.flags with upgraded := true } }⟩ ∧
          OtherRecords [h.index] s (s.promote r) ∧
          (s.promote r).entry r = some { e with state := .exclusive, counter := e.counter + 1, upgrade := none } ∧
          OtherEntries r s (s.promote r) ∧ DeadlineMoved h.index (some d) s (s.promote r) ∧
          (∀ n, e.state ≠ .exclusive → e.settings.guardLine = some n →
            (s.promote r).lines[n] = (s.lines[n]).exclusiveBegin e.settings.guardGap s.clock.count) ∧
          OtherLines e.settings.guardLine.toList s (s.promote r) ∧
          (s.promote r).management.alerts = s.management.alerts)

/-! Reports. -/

/-- LEASE_STATUS, QUERY, DEVICE_STATUS and PORT_STATUS are answered from the state as their items find it, and change nothing
but the exchange of their interface: BAD_HANDLE, NO_RESOURCE or BAD_ARGUMENT where the handle, the id or the port number
names nothing, else OK with the fields that Tables 11-8, 11-10 and 11-11 lay out, each at its place and with its codes (01
section 1.10, 02 section 2.7, 10 section 10.6, 11 sections 11.3, 11.5 and 11.6). -/
def Obligations.ReportsChangeNothing : Prop :=
  ∀ (l : Link) (f : Frame) (s : State),
    (s.serves .leaseStatus l f →
      (s.resolve l (readHandle f.body) = none → RepliesOnly .leaseStatus l f s .badHandle []) ∧
      ∀ x, s.resolve l (readHandle f.body) = some x →
        RepliesOnly .leaseStatus l f s .ok (leaseStatusLayout (readHandle f.body) x)) ∧
    (s.serves .query l f →
      (s.entry (field f.body 0 2) = none → RepliesOnly .query l f s .noResource []) ∧
      ∀ e, s.entry (field f.body 0 2) = some e →
        RepliesOnly .query l f s .ok
          (entryLayout e ++ laidOut [(1, e.holders.length), (1, e.waiters.length)]
            ++ e.holders.flatMap (holderLayout s))) ∧
    (s.serves .deviceStatus l f → RepliesOnly .deviceStatus l f s .ok (deviceStatusLayout s)) ∧
    (s.serves .portStatus l f →
      (8 ≤ (byteAt f.body 0).toNat → RepliesOnly .portStatus l f s .badArgument []) ∧
      ∀ p : Port, (byteAt f.body 0).toNat = p.val → RepliesOnly .portStatus l f s .ok (portStatusLayout s p))

/-- VALIDATE, which every interface may send, is classified by the first condition that holds: an id that no declared entry
carries, a token above the fencing counter, a token carried by a holder of an EXCLUSIVE entry, one carried by a holder of a
SHARED entry, and any other token (R109). The body carries the counter, and for a current token the in-grace flag and the
port of its holder; nothing changes (R110). -/
def Obligations.ValidateClassifiesToken : Prop :=
  ∀ (l : Link) (f : Frame) (s : State), Kind.validate.permitted l = true ∧ (s.serves .validate l f →
    let token := field f.body 2 4
    (s.entry (field f.body 0 2) = none → RepliesOnly .validate l f s .noResource []) ∧
    ∀ e, s.entry (field f.body 0 2) = some e → EntryOk s e →
      (e.counter < token → RepliesOnly .validate l f s .unissued (leBytes 4 e.counter)) ∧
      (token ≤ e.counter → (∀ h ∈ e.holders, s.tokenOf h ≠ some token) →
        RepliesOnly .validate l f s .superseded (leBytes 4 e.counter)) ∧
      ∀ h x, token ≤ e.counter → h ∈ e.holders → s.tokenOf h = some token → s.lease h.index = some x →
        (e.state = .exclusive →
          RepliesOnly .validate l f s .currentExclusive
            ([boolByte x.phase.isGrace, byteOf x.port.val] ++ leBytes 4 e.counter)) ∧
        (e.state = .shared →
          RepliesOnly .validate l f s .currentShared
            ([boolByte x.phase.isGrace, byteOf x.port.val] ++ leBytes 4 e.counter)))

/-! Notices. -/

/-- FETCH_NOTICES with a cursor above 511 is answered BAD_ARGUMENT and changes nothing. Otherwise it reports the first eight of
the port's flagged records at or above the cursor, in ascending order of index, with a next cursor one above the last where a
ninth follows, each record in the layout of Table 11-9, and the lapsed-unseen count as it stood, which it then sets to 0, and
changes no flag (07 section 7.3, 11 sections 11.5 and 11.6). -/
def Obligations.FetchNoticesReportsPage : Prop :=
  ∀ (p : Port) (f : Frame) (s : State) (flagged : List Index), s.serves .fetchNotices (.client p) f →
    let cursor := field f.body 0 2
    (511 < cursor → RepliesOnly .fetchNotices (.client p) f s .badArgument []) ∧
    (cursor ≤ 511 → flagged.Pairwise (fun i j => i < j) →
      (∀ i, i ∈ flagged ↔ cursor ≤ i.val ∧ ∃ l, s.lease i = some l ∧ l.port = p ∧ l.flags.any = true) →
        let page := flagged.take 8
        let more := decide (8 < flagged.length)
        ∃ t, exec .fetchNotices s = .next t ∧
          Answered s t (.client p) f .ok
            (laidOut
                [(1, page.length), (1, bitsValue [more]), (2, if more then (page.getD 7 0).val + 1 else 0),
                  (1, s.ports[p].lapsed)]
              ++ page.flatMap (noticeLayout s)) ∧
          t.ports = s.ports.set p { s.ports[p] with lapsed := 0 } ∧ SameStore s t ∧ t.directory = s.directory ∧
          SameTime s t ∧ t.lines = s.lines ∧ t.management.alerts = s.management.alerts ∧ ItemFrame (.client p) s t)

/-- An ACKNOWLEDGE with an entry that names a flag outside the four is answered BAD_ARGUMENT and changes nothing. Otherwise its
entries are taken one after another, each on the records as those before it have left them: BAD_HANDLE and NOT_SET change
nothing, DONE removes the flags named that are set, and frees the record where CLOSED is among them; the answer carries one
result for each entry (07 section 7.4). -/
def Obligations.AcknowledgeTakesEntriesInTurn : Prop :=
  ∀ (p : Port) (f : Frame) (s : State), s.serves .acknowledge (.client p) f → RecordsOk s →
    let entries := readAcknowledge f.body
    ((∃ e ∈ entries, 16 ≤ e.flags.toNat) → RepliesOnly .acknowledge (.client p) f s .badArgument []) ∧
    ((∀ e ∈ entries, e.flags.toNat < 16) →
      ∃ results u t, AcknowledgedAll p entries s results u ∧ exec .acknowledge s = .next t ∧
        SameOutcome u t ∧ SameTime s t ∧ t.directory = s.directory ∧ t.lines = s.lines ∧
        t.management.alerts = s.management.alerts ∧ ItemFrame (.client p) s t ∧
        Answered s t (.client p) f .ok (byteOf entries.length :: results))

/-- ACK_ALERTS is answered OK with the alert set as it stands, in the layout of section 11.5, and then clears exactly the alerts
that its selection names: TOKEN_LIMIT loses its resource id and PORT_RESET's set of ports becomes empty; the others keep their
flags and values (07 section 7.6, R131). In every state a client attention output is high exactly while the port's exchange is
READY, or the port is ONLINE with a notice or a lapsed-unseen count above 0, so a port that is not ONLINE holds it by READY alone,
and one IN_RESET, whose exchange is IDLE, not at all; MATTN is high exactly while the management exchange is READY or an alert
is set, and is high as ACK_ALERTS completes (07 sections 7.5 and 7.7: R128, R129, R133). -/
def Obligations.AckAlertsAndAttention : Prop :=
  (∀ (f : Frame) (s : State), s.serves .ackAlerts .management f →
    let named := fun k => bitOf (byteAt f.body 0) k
    let a := s.management.alerts
    ∃ t, exec .ackAlerts s = .next t ∧ Answered s t .management f .ok (alertLayout a) ∧
      t.management.alerts =
        ⟨if named 0 then false else a.tablePressure, if named 1 then none else a.tokenLimit,
          if named 2 then false else a.syncLost, if named 3 then false else a.syncAcquired,
          if named 4 then Vector.replicate 8 false else a.portReset⟩ ∧
      SameTable s t ∧ SameTime s t ∧ t.lines = s.lines ∧ ItemFrame .management s t ∧ t.managementAttention = true) ∧
    ∀ s : State,
      (∀ p : Port,
        (s.attention p = true ↔
          s.clients[p].exchange.state = .ready ∨
            (s.clients[p].session = .online ∧ (0 < s.ports[p].notices ∨ 0 < s.ports[p].lapsed))) ∧
          (s.clients[p].session ≠ .online → (s.attention p = true ↔ s.clients[p].exchange.state = .ready)) ∧
          (ExchangesOk s → s.clients[p].session = .inReset → s.attention p = false)) ∧
        (s.managementAttention = true ↔
          s.management.exchange.state = .ready ∨ s.management.alerts.tablePressure = true ∨
            s.management.alerts.tokenLimit ≠ none ∨ s.management.alerts.syncLost = true ∨
            s.management.alerts.syncAcquired = true ∨ ∃ p : Port, s.management.alerts.portReset[p] = true)

/-! The directory. -/

/-- DECLARE takes the checks of R29 in order (BAD_ARGUMENT, EXISTS, DIRECTORY_FULL, GUARD_IN_USE), and a refused one changes
nothing. One that passes adds a VACANT entry with the settings given, the token base or 0 as its counter and empty lists, and
places a guard line given in CLEAR (02 section 2.4, R30). -/
def Obligations.DeclareCreatesEntry : Prop :=
  ∀ (f : Frame) (s : State), s.serves .declare .management f →
    let a := DeclareArgs.read f.body
    let inRange :=
      1 ≤ a.resource ∧ a.resource ≤ 65535 ∧ 1 ≤ a.maxSharers ∧ a.maxSharers ≤ 16 ∧ 1 ≤ a.minTerm ∧
        a.minTerm ≤ a.maxTerm ∧ a.maxTerm ≤ 4194303 ∧ a.grace ≤ 65535 ∧ a.maxWaiters ≤ 64 ∧ a.guardGap ≤ 1000 ∧
        ∀ n, a.guardLine = some n → n ≤ 15
    let taken := ∃ n, a.guardLine = some n ∧ ∃ e ∈ s.directory, e.settings.guardLine.map Fin.val = some n
    let counter := a.tokenBase.getD 0
    (¬ inRange → RepliesOnly .declare .management f s .badArgument []) ∧
    (inRange → s.entry a.resource ≠ none → RepliesOnly .declare .management f s .exists_ []) ∧
    (inRange → s.entry a.resource = none → 256 ≤ s.directory.length →
      RepliesOnly .declare .management f s .directoryFull []) ∧
    (inRange → s.entry a.resource = none → s.directory.length < 256 → taken →
      RepliesOnly .declare .management f s .guardInUse []) ∧
    (inRange → s.entry a.resource = none → s.directory.length < 256 → ¬ taken →
      ∃ line t, exec .declare s = .next t ∧ line.map Fin.val = a.guardLine ∧
        t.directory =
          s.directory ++
            [⟨a.resource, .vacant,
              ⟨a.sharing, a.maxSharers, a.minTerm, a.maxTerm, a.grace, a.maxWaiters, line, a.guardGap⟩, counter, [],
              none, []⟩] ∧
        (∀ n, line = some n → t.lines[n] = ⟨.clear a.resource, s.lines[n].lastDeassertedAt⟩) ∧
        OtherLines line.toList s t ∧ SameStore s t ∧ t.ports = s.ports ∧ SameTime s t ∧
        t.management.alerts = s.management.alerts ∧ ItemFrame .management s t ∧
        Answered s t .management f .ok (leBytes 2 a.resource ++ leBytes 4 counter))

/-- AMEND takes the checks of R31 in order (NO_RESOURCE, BAD_ARGUMENT, IN_USE, GUARD_IN_USE), and a refused one changes
nothing. One that passes changes exactly the settings whose presence bits are set, each to the field that Table 11-7 gives it,
unbinds the line whose binding ends before it places a newly bound one in CLEAR, then runs promotion where max sharers was
raised, and is answered OK with the entry block of Table 11-10 (02 section 2.5, 11 sections 11.4 and 11.5). -/
def Obligations.AmendChangesSettings : Prop :=
  ∀ (f : Frame) (s : State), s.serves .amend .management f →
    let r := field f.body 0 2
    let has := fun k => bitOf (byteAt f.body 2) k
    (s.entry r = none → RepliesOnly .amend .management f s .noResource []) ∧
    ∀ e, s.entry r = some e → GuardsOk s →
      let t : Settings :=
        { sharing := if has 0 then decide (byteAt f.body 3 = 1) else e.settings.sharing
          maxSharers := if has 1 then field f.body 4 1 else e.settings.maxSharers
          minTerm := if has 2 then field f.body 5 4 else e.settings.minTerm
          maxTerm := if has 3 then field f.body 9 4 else e.settings.maxTerm
          grace := if has 4 then field f.body 13 2 else e.settings.grace
          maxWaiters := if has 5 then field f.body 15 1 else e.settings.maxWaiters
          guardLine :=
            if has 7 then if byteAt f.body 18 = 1 then none else some (Fin.ofNat 16 (field f.body 19 1))
            else e.settings.guardLine
          guardGap := if has 6 then field f.body 16 2 else e.settings.guardGap }
      let inRange :=
        (has 0 = true → byteAt f.body 3 = 0 ∨ byteAt f.body 3 = 1) ∧
          (has 1 = true → 1 ≤ field f.body 4 1 ∧ field f.body 4 1 ≤ 16) ∧
          (has 2 = true → 1 ≤ field f.body 5 4 ∧ field f.body 5 4 ≤ 4194303) ∧
          (has 3 = true → 1 ≤ field f.body 9 4 ∧ field f.body 9 4 ≤ 4194303) ∧ t.minTerm ≤ t.maxTerm ∧
          (has 5 = true → field f.body 15 1 ≤ 64) ∧ (has 6 = true → field f.body 16 2 ≤ 1000) ∧
          (has 7 = true → byteAt f.body 18 = 1 ∨ (byteAt f.body 18 = 0 ∧ field f.body 19 1 ≤ 15))
      let inUse :=
        (t.maxSharers < e.settings.maxSharers ∧ t.maxSharers < e.holders.length) ∨
          (t.maxWaiters < e.settings.maxWaiters ∧ t.maxWaiters < e.waiters.length) ∨
          (e.settings.sharing = true ∧ t.sharing = false ∧
            ∃ i l, s.lease i = some l ∧ l.resource = e.resource ∧ l.phase.isLive = true ∧ l.mode = .shared) ∨
          (t.guardLine ≠ e.settings.guardLine ∧ ¬ (e.state = .vacant ∧ e.upgrade = none ∧ e.waiters = []))
      let taken :=
        has 7 = true ∧ byteAt f.body 18 = 0 ∧
          ∃ x ∈ s.directory, x.resource ≠ r ∧ x.settings.guardLine = t.guardLine
      (¬ inRange → RepliesOnly .amend .management f s .badArgument []) ∧
      (inRange → inUse → RepliesOnly .amend .management f s .inUse []) ∧
      (inRange → ¬ inUse → taken → RepliesOnly .amend .management f s .guardInUse []) ∧
      (inRange → ¬ inUse → ¬ taken →
        ∃ u v x, exec .amend s = .next v ∧ u.entry r = some { e with settings := t } ∧
          OtherEntries r s u ∧ SameStore s u ∧ u.ports = s.ports ∧
          (t.guardLine = e.settings.guardLine → u.lines = s.lines) ∧
          (∀ n, e.settings.guardLine = some n → t.guardLine ≠ some n →
            u.lines[n] = ⟨.unbound, s.lines[n].lastDeassertedAt⟩) ∧
          (∀ n, t.guardLine = some n → e.settings.guardLine ≠ some n →
            u.lines[n] = ⟨.clear r, s.lines[n].lastDeassertedAt⟩) ∧
          OtherLines (e.settings.guardLine.toList ++ t.guardLine.toList) s u ∧
          u.management.alerts = s.management.alerts ∧ SameTime s u ∧
          (e.settings.maxSharers < t.maxSharers → SameOutcome (u.promote r) v) ∧
          (t.maxSharers ≤ e.settings.maxSharers → SameOutcome u v) ∧ SameTime s v ∧ ItemFrame .management s v ∧
          v.entry r = some x ∧ Answered s v .management f .ok (entryLayout x))

/-- RETIRE of an id that no entry carries is answered NO_RESOURCE. Otherwise it closes the holders in grant order and then the
waiters in arrival order with reason RETIRED, drops and unbinds the guard line, and removes the entry, with no promotion and
no token issued; the answer carries the numbers closed and the counter (02 section 2.6). -/
def Obligations.RetireClosesAllAndRemoves : Prop :=
  ∀ (f : Frame) (s : State), s.serves .retire .management f →
    let r := field f.body 0 2
    (s.entry r = none → RepliesOnly .retire .management f s .noResource []) ∧
    ∀ e, s.entry r = some e → EntryOk s e →
      let all := e.holders ++ e.waiters
      let count := fun (p : Port) (q : Lease → Bool) =>
        all.countP (fun h => match s.lease h.index with | some l => l.port == p && q l | none => false)
      ∃ t, exec .retire s = .next t ∧
        (∀ h l, h ∈ all → s.lease h.index = some l →
          t.records[h.index] =
            ⟨h.tag, some { l with phase := .closed l.phase.grant .retired, flags := { l.flags with closed := true } }⟩) ∧
        OtherRecords (all.map Handle.index) s t ∧ t.closedOrder = s.closedOrder ++ all.map Handle.index ∧
        t.freePool = s.freePool ∧
        (∀ x, x ∈ t.deadlines ↔ x ∈ s.deadlines ∧ x.index ∉ all.map Handle.index) ∧
        (∀ p : Port,
          t.ports[p] =
            ⟨s.ports[p].quota, s.ports[p].live - count p (fun _ => true), s.ports[p].closed + count p (fun _ => true),
              s.ports[p].notices + count p (fun l => !l.flags.any), s.ports[p].lapsed⟩) ∧
        t.directory = s.directory.filter (fun x => x.resource != r) ∧
        (∀ n, e.settings.guardLine = some n →
          t.lines[n] =
            ⟨.unbound, if s.guardOutput n then s.clock.count else s.lines[n].lastDeassertedAt⟩) ∧
        OtherLines e.settings.guardLine.toList s t ∧ SameTime s t ∧ t.management.alerts = s.management.alerts ∧
        ItemFrame .management s t ∧
        Answered s t .management f .ok
          (leBytes 2 r ++ [byteOf e.holders.length, byteOf e.waiters.length] ++ leBytes 4 e.counter)

/-! Administration. -/

/-- SET_QUOTA with a port above 7 or a quota outside 1..256 is answered BAD_ARGUMENT, with one below the port's live count
IN_USE with that count, and either changes nothing; otherwise the port's quota takes the value, and nothing else changes (10
section 10.2, R172). -/
def Obligations.SetQuotaBoundsLiveCount : Prop :=
  ∀ (f : Frame) (s : State), s.serves .setQuota .management f →
    let quota := field f.body 1 2
    ((8 ≤ (byteAt f.body 0).toNat ∨ quota < 1 ∨ 256 < quota) →
      RepliesOnly .setQuota .management f s .badArgument []) ∧
    ∀ p : Port, (byteAt f.body 0).toNat = p.val → 1 ≤ quota → quota ≤ 256 →
      (quota < s.ports[p].live →
        RepliesOnly .setQuota .management f s .inUse (leBytes 2 s.ports[p].live)) ∧
      (s.ports[p].live ≤ quota →
        ∃ t, exec .setQuota s = .next t ∧ t.ports = s.ports.set p { s.ports[p] with quota := quota } ∧
          SameStore s t ∧ t.directory = s.directory ∧ SameTime s t ∧ t.lines = s.lines ∧
          t.management.alerts = s.management.alerts ∧ ItemFrame .management s t ∧
          Answered s t .management f .ok ([byteOf p.val] ++ leBytes 2 quota ++ leBytes 2 s.ports[p].live))

/-- REVOKE of a live record closes it REVOKED, takes it out of its resource with exclusive end where it was the EXCLUSIVE
holder, and then runs promotion if it was a holder or the head of the queue; the answer is OK with its port, the state it had,
its mode and its token. A CLOSED record is answered NOT_LIVE with its reason and a handle that does not resolve NOT_LIVE
without one, and neither changes anything (10 section 10.3). -/
def Obligations.RevokeClosesRecord : Prop :=
  ∀ (f : Frame) (s : State), s.serves .revoke .management f →
    let h := readHandle f.body
    (s.resolve .management h = none → RepliesOnly .revoke .management f s .notLive [0, 0, 0]) ∧
    (∀ l g r, s.resolve .management h = some l → l.phase = .closed g r →
      RepliesOnly .revoke .management f s .notLive [1, 4, r.code]) ∧
    ∀ l e, s.resolve .management h = some l → l.phase.isLive = true → s.entry l.resource = some e → EntryOk s e →
      ∃ u t, exec .revoke s = .next t ∧ ClosedFor h.index l .revoked s u ∧ LeavesResource h e s u ∧
        (LeavingPromotes h l e → SameOutcome (u.promote l.resource) t) ∧
        (¬ LeavingPromotes h l e → SameOutcome u t) ∧ SameTime s t ∧ ItemFrame .management s t ∧
        Answered s t .management f .ok
          ([byteOf l.port.val, l.phase.code, l.mode.code, boolByte l.phase.grant.isSome]
            ++ leBytes 4 ((l.phase.grant.map Grant.token).getD 0))

/-- PORT_RESET of a port above 7 is answered BAD_ARGUMENT. Otherwise the port's request, response and replay record are
discarded, its records are freed, each handle leaving its resource with exclusive end and promotion where they follow, its
counts become 0, PORT_RESET is posted for it, and its session becomes OFFLINE unless it is IN_RESET, with epoch and quota kept
(10 section 10.4, 01 section 1.12, 02 section 2.9). That promotion runs as each record is freed is read from R42 (log entry
17). -/
def Obligations.PortResetEndsSession : Prop :=
  ∀ (f : Frame) (s : State), s.serves .portReset .management f →
    (8 ≤ (byteAt f.body 0).toNat → RepliesOnly .portReset .management f s .badArgument []) ∧
    ∀ p : Port, (byteAt f.body 0).toNat = p.val →
      ∃ t, exec .portReset s = .next t ∧ PortFreed p s t ∧ PortEmptied p s t ∧ PortResetPosted p s t ∧
        t.clients[p] =
          { s.clients[p] with
            exchange := ⟨.idle, none, none, none⟩
            session := if s.clients[p].session = .inReset then .inReset else .offline } ∧
        (∀ q, q ≠ p → t.clients[q] = s.clients[q]) ∧ t.management.link = s.management.link ∧
        t.management.held = s.management.held ∧ t.arbiter = .management ∧ SameTime s t ∧ SamePins s t ∧
        Answered s t .management f .ok
          ([byteOf p.val] ++ leBytes 2 (s.countOf p (fun l => l.phase.isLive))
            ++ leBytes 2 (s.countOf p (fun l => l.phase.isClosed))
            ++ [bitsByte [s.clients[p].exchange.slot.isSome, s.clients[p].exchange.buffer.isSome]])

/-- CLEAR_ALL frees every record and advances every tag, empties the lists and counts, withdraws an offered item, keeps every
entry with its settings and counter but VACANT and empty, restarts the gap of every bound line at now, ends every session
and exchange of the client ports, and leaves quotas, epochs, alerts and the clock as they are; every client attention output
is low and MATTN is high (10 section 10.5). -/
def Obligations.ClearAllEmptiesTable : Prop :=
  ∀ (f : Frame) (s : State), s.serves .clearAll .management f →
    ∃ t, exec .clearAll s = .next t ∧ (∀ i : Index, t.records[i] = ⟨s.records[i].tag + 1, none⟩) ∧
      t.freePool = List.finRange 512 ∧ t.closedOrder = [] ∧ t.deadlines = [] ∧ t.offer = none ∧
      (∀ p : Port, t.ports[p] = ⟨s.ports[p].quota, 0, 0, 0, 0⟩) ∧
      t.directory =
        s.directory.map (fun e => { e with state := .vacant, holders := [], upgrade := none, waiters := [] }) ∧
      (∀ n : LineNo, t.lines[n] =
        match s.lines[n].state.binding with
        | some r => ⟨.clear r, s.clock.count⟩
        | none => s.lines[n]) ∧
      (∀ p : Port,
        t.clients[p] =
          { s.clients[p] with
            exchange := ⟨.idle, none, none, none⟩
            session := if s.clients[p].session = .inReset then .inReset else .offline }) ∧
      t.management = { s.management with exchange := t.management.exchange } ∧ SameTime s t ∧
      t.arbiter = .management ∧ t.nReset = s.nReset ∧ t.pending = s.pending ∧ (∀ p, t.attention p = false) ∧
      t.managementAttention = true ∧
      Answered s t .management f .ok
        (leBytes 2 ((List.finRange 512).countP (fun i => (s.lease i).any (fun l => l.phase.isLive)))
          ++ leBytes 2 ((List.finRange 512).countP (fun i => (s.lease i).any (fun l => l.phase.isClosed)))
          ++ leBytes 2 s.directory.length)

/-! The clock requests. -/

/-- CLOCK_SETUP with a divisor outside 1..4096, a trim outside -255..255 or a positive trim at divisor 1 is answered
BAD_ARGUMENT, one that changes the divisor of a RUNNING clock CLOCK_RUNNING, and either changes nothing; otherwise the divisor
and trim set take the values, and nothing else of the clock changes (08 section 8.3, R140). -/
def Obligations.ClockSetupSetsDivisorAndTrim : Prop :=
  ∀ (f : Frame) (s : State), s.serves .clockSetup .management f →
    let divisor := field f.body 0 2
    let trim := (BitVec.ofNat 16 (field f.body 2 2)).toInt
    let bad := divisor < 1 ∨ 4096 < divisor ∨ trim < -255 ∨ 255 < trim ∨ (divisor = 1 ∧ 0 < trim)
    let running := s.clock.state = .running ∧ divisor ≠ s.clock.divisor
    (bad → RepliesOnly .clockSetup .management f s .badArgument []) ∧
    (¬ bad → running → RepliesOnly .clockSetup .management f s .clockRunning []) ∧
    (¬ bad → ¬ running →
      ∃ t, exec .clockSetup s = .next t ∧ t.clock = { s.clock with divisor := divisor, trimSet := trim } ∧
        t.sync = s.sync ∧ SameTable s t ∧ t.lines = s.lines ∧ t.management.alerts = s.management.alerts ∧
        ItemFrame .management s t ∧
        Answered s t .management f .ok
          (leBytes 2 divisor ++ leBytes 2 (BitVec.ofInt 16 trim).toNat
            ++ leBytes 2 (BitVec.ofInt 16 s.clock.trimInUse).toNat ++ [s.clock.state.code]))

/-- CLOCK_START in STOPPED makes the clock RUNNING at step 0 of a new tick, with trim position 0 and trim set in use.
CLOCK_HOLD in RUNNING requests a hold, and the management exchange stays PENDING with no response written. CLOCK_RESUME in HELD
makes the clock RUNNING at step 0 of a new tick, trim set in use at trim position 0, and restarts a discipline that is not OFF.
None of them changes the count (for CLOCK_START see log entry 24), and in the other states each is answered WRONG_STATE with
the state and changes nothing (08 section 8.3, R141, R142, R144). Step 0 of a tick that begins is corrected where the trim in use
and the trim position call for it (08 section 8.1, R137). -/
def Obligations.ClockRequestsChangeState : Prop :=
  ∀ (f : Frame) (s : State),
    let wrong := fun c => RepliesOnly c .management f s .wrongState [s.clock.state.code]
    (s.serves .clockStart .management f →
      (s.clock.state ≠ .stopped → wrong .clockStart) ∧
      (s.clock.state = .stopped →
        ∃ t, exec .clockStart s = .next t ∧ Answered s t .management f .ok [] ∧
          t.clock =
            { s.clock with
              state := .running
              trimPosition := 0
              trimInUse := s.clock.trimSet
              phase := ⟨0, 0, trimCorrects s.clock.trimSet.natAbs 0⟩ } ∧
          t.sync = { s.sync with window := windowAtHand s.sync s.clock.count } ∧
          SameTable s t ∧ t.lines = s.lines ∧ t.management.alerts = s.management.alerts ∧
          ItemFrame .management s t)) ∧
    (s.serves .clockHold .management f →
      (s.clock.state ≠ .running → wrong .clockHold) ∧
      (s.clock.state = .running →
        ∃ t, exec .clockHold s = .next t ∧ t.clock = { s.clock with holdRequested := true } ∧ t.sync = s.sync ∧
          t.management =
            { s.management with
              held := some f
              exchange := { s.management.exchange with state := .pending, slot := none } } ∧
          t.clients = s.clients ∧ SameTable s t ∧ t.lines = s.lines ∧ t.arbiter = .management ∧ SamePins s t)) ∧
    (s.serves .clockResume .management f →
      (s.clock.state ≠ .held → wrong .clockResume) ∧
      (s.clock.state = .held →
        ∃ t, exec .clockResume s = .next t ∧ Answered s t .management f .ok [] ∧
          t.clock =
            { s.clock with
              state := .running
              trimInUse := if s.clock.trimPosition = 0 then s.clock.trimSet else s.clock.trimInUse
              phase := ⟨0, 0, trimCorrects t.clock.trimInUse.natAbs s.clock.trimPosition⟩ } ∧
          (s.sync.state ≠ .off → t.sync = ⟨.acquiring, none, 0, 0, none⟩) ∧
          (s.sync.state = .off → t.sync = { s.sync with window := windowAtHand s.sync s.clock.count }) ∧ SameTable s t ∧
          t.lines = s.lines ∧ t.management.alerts = s.management.alerts ∧ ItemFrame .management s t))

/-- DISCIPLINE with a setting other than ON and OFF is answered BAD_ARGUMENT. OFF makes the state OFF and ON makes it ACQUIRING,
whatever it was; in both cases the origin is discarded, both counts become 0, an open window is abandoned without a miss, no
alert is posted, and the answer carries the state (08 section 8.4, R150). -/
def Obligations.DisciplineRestarts : Prop :=
  ∀ (f : Frame) (s : State), s.serves .discipline .management f →
    let setting := (byteAt f.body 0).toNat
    (2 ≤ setting → RepliesOnly .discipline .management f s .badArgument []) ∧
    (setting < 2 →
      ∃ t, exec .discipline s = .next t ∧
        t.sync = ⟨if setting = 1 then .acquiring else .off, none, 0, 0, none⟩ ∧ t.clock = s.clock ∧ SameTable s t ∧
        t.lines = s.lines ∧ t.management.alerts = s.management.alerts ∧ ItemFrame .management s t ∧
        Answered s t .management f .ok [byteOf setting])

/-! Resets. -/

/-- A rise of a reset line makes the port IN_RESET, discards its request, response and replay record, places a reset item and
cuts a transaction under way to OFFLINE-IGNORED; the reset item of the lowest-numbered port frees the port's records with the
exclusive ends and promotions that follow, zeroes its counts and posts PORT_RESET; a fall makes an IN_RESET port OFFLINE, and a
transaction under way, which does nothing at its end, shifts out filler from then on (11 section 11.1). The epoch and the quota
are kept throughout (09 section 9.5, 01 section 1.12, 02 section 2.9). Four things here are the model's: that a rise of a high
line and a RESET_ITEM with none pending change nothing (log entry 2), that the reset item is a flag of the port (log entry 11),
how what is shifted out is kept and that OFFLINE-IGNORED ends with the fall (log entry 12), and that promotion runs as each
record is freed (log entry 17). -/
def Obligations.ResetLineEndsSession : Prop :=
  ∀ (p : Port) (s : State), s.nReset = true →
    (s.clients[p].resetLine = false →
      ∃ t, exec (.portRstRise p) s = .next t ∧ t = { s with clients := t.clients } ∧
        t.clients[p] =
          { session := .inReset
            epoch := s.clients[p].epoch
            exchange := ⟨.idle, none, none, none⟩
            resetItem := true
            resetLine := true
            link := t.clients[p].link } ∧
        LinkCut 0xF0#8 s.clients[p].link t.clients[p].link ∧
        ∀ q, q ≠ p → t.clients[q] = s.clients[q]) ∧
    (s.clients[p].resetLine = true →
      exec (.portRstRise p) s = .next s ∧
        ∃ t, exec (.portRstFall p) s = .next t ∧ t = { s with clients := t.clients } ∧
          t.clients[p] =
            { s.clients[p] with
              resetLine := false
              session := if s.clients[p].session = .inReset then .offline else s.clients[p].session
              link := t.clients[p].link } ∧
          LinkCut 0xFF#8 s.clients[p].link t.clients[p].link ∧
          ∀ q, q ≠ p → t.clients[q] = s.clients[q]) ∧
    (s.clients[p].resetItem = true → (∀ q, q < p → s.clients[q].resetItem = false) →
      ∃ t, exec .resetItem s = .next t ∧ PortFreed p s t ∧ PortEmptied p s t ∧ PortResetPosted p s t ∧
        t.clients = s.clients.set p { s.clients[p] with resetItem := false } ∧
        t.management = { s.management with alerts := t.management.alerts } ∧ t.arbiter = s.arbiter ∧ SameTime s t ∧
        SamePins s t) ∧
    ((∀ q : Port, s.clients[q].resetItem = false) → exec .resetItem s = .next s)

/-- The values of every block after device reset, in `t`, with what lies outside the blocks as in `s` (10 section 10.7,
R183). -/
def AtResetValues (s t : State) : Prop :=
  (∀ i : Index, t.records[i] = ⟨0, none⟩) ∧ t.freePool = List.finRange 512 ∧ t.closedOrder = [] ∧
    (∀ p : Port, t.ports[p] = ⟨64, 0, 0, 0, 0⟩) ∧ t.directory = [] ∧ t.deadlines = [] ∧ t.offer = none ∧
    t.arbiter = .expiryUnit ∧ t.clock = ⟨.stopped, false, 0, 1536, 0, 0, 0, ⟨0, 0, false⟩⟩ ∧
    t.sync = ⟨.off, none, 0, 0, none⟩ ∧ (∀ n : LineNo, t.lines[n] = ⟨.unbound, 0⟩) ∧
    (∀ p : Port,
      t.clients[p].epoch = 0 ∧ t.clients[p].exchange = ⟨.idle, none, none, none⟩ ∧ t.clients[p].resetItem = false ∧
        t.clients[p].resetLine = s.clients[p].resetLine ∧ t.attention p = false) ∧
    t.management.exchange = ⟨.idle, none, none, none⟩ ∧ t.management.held = none ∧
    t.management.alerts = ⟨false, none, false, false, Vector.replicate 8 false⟩ ∧ t.managementAttention = false ∧
    (∀ n, t.guardOutput n = false) ∧
    (∀ l tr, (s.link l).transaction = some tr → tr.abandoned = false →
      (t.link l).transaction =
        some { tr with atEnd := .nothing, shifts := tr.shifts ++ [⟨[], 0xFF#8⟩], abandoned := true }) ∧
    (∀ l, (t.link l).shiftedOut = (s.link l).shiftedOut ∧
      ((s.link l).transaction = none → (t.link l).transaction = none) ∧
      ∀ tr, (s.link l).transaction = some tr → tr.abandoned = true → (t.link l).transaction = some tr) ∧
    t.pending = s.pending

/-- Device reset, by a fall of nRESET or by power-on, gives every block its device-reset value with every output low and every
transaction under way abandoned; its end, by a rise of nRESET or a power-on with nRESET high, leaves those values, with each
port IN_RESET whose reset line is high and every other one OFFLINE (10 section 10.7). That the levels of the inputs and the bytes
already shifted out are kept, and POWER_ON's operand, are the model's choices (log entries 12 and 18). -/
def Obligations.DeviceResetSetsEveryBlock : Prop :=
  ∀ (c : Instr) (s : State),
    (((c = .nresetFall ∧ s.nReset = true) ∨ c = .powerOn false) →
      ∃ t, exec c s = .next t ∧ AtResetValues s t ∧ t.nReset = false ∧ ∀ p : Port, t.clients[p].session = .offline) ∧
    (((c = .nresetRise ∧ s.nReset = false) ∨ c = .powerOn true) →
      ∃ t, exec c s = .next t ∧ AtResetValues s t ∧ t.nReset = true ∧
        ∀ p : Port, t.clients[p].session = if s.clients[p].resetLine then .inReset else .offline)

/-- While nRESET is low, no command but the rise of nRESET and power-on changes any block: reset lines, SYNC edges, REFCLK,
items and transactions have no effect on any state but the levels of the reset lines and the links themselves (R182). That
transactions do nothing at their end is the premise LinksOk, which every step keeps. -/
def Obligations.DeviceResetHoldsEveryBlock : Prop :=
  ∀ (c : Instr) (s t : State), LinksOk s → s.nReset = false → c ≠ .nresetRise → (∀ high, c ≠ .powerOn high) →
    exec c s = .next t ∨ (s.pending = [] ∧ t = s.refclk) →
      SameTable s t ∧ SameTime s t ∧ SamePins s t ∧ t.lines = s.lines ∧ t.arbiter = s.arbiter ∧
        t.management = { s.management with link := t.management.link } ∧
        ∀ p : Port,
          t.clients[p] = { s.clients[p] with link := t.clients[p].link, resetLine := t.clients[p].resetLine }

/-! Expiry. -/

/-- An expiry item that the arbiter grants is void if its record is not in the deadline list or its deadline is above now, and
then changes nothing. A WAITING record closes WAIT_EXPIRED; a HELD record whose entry has no grace, and a GRACE record, close
LAPSED; a HELD record whose entry has a grace enters GRACE until its old deadline plus the grace, with WARNING and its upgrade
cancelled. Promotion follows where the record left the holders or the head of the queue, and where an upgrade was cancelled.
The unit returns to IDLE (05 sections 5.3 to 5.5). -/
def Obligations.ExpiryItemActsOnRecord : Prop :=
  ∀ (s : State) (i : Index), s.granted = some .expiryUnit → s.offer = some i →
    ((∀ d, (⟨d, i⟩ : DeadlineItem) ∈ s.deadlines → s.clock.count < d) →
      exec .expiryItem s = .next { s with arbiter := .expiryUnit, offer := none }) ∧
    ∀ (d : Nat) (l : Lease) (e : Entry), (⟨d, i⟩ : DeadlineItem) ∈ s.deadlines → d ≤ s.clock.count →
      s.lease i = some l → s.entry l.resource = some e → EntryOk s e →
      (l.phase.isHolder = true → s.handle i ∈ e.holders) →
        let h := s.handle i
        ∃ u t, exec .expiryItem s = .next t ∧ SameTime s t ∧ t.clients = s.clients ∧
          t.management = { s.management with alerts := t.management.alerts } ∧ t.arbiter = .expiryUnit ∧
          t.offer = none ∧ t.nReset = s.nReset ∧ t.pending = s.pending ∧
          ((∃ w, l.phase = .waiting w) →
            ClosedFor i l .waitExpired s u ∧ LeavesResource h e s u ∧
              (LeavingPromotes h l e → SameOutcome (u.promote l.resource) t) ∧
              (¬ LeavingPromotes h l e → SameOutcome u t)) ∧
          ((∃ g x, l.phase = .grace g x) ∨ (l.phase.isHeld = true ∧ e.settings.grace = 0) →
            ClosedFor i l .lapsed s u ∧ LeavesResource h e s u ∧ SameOutcome (u.promote l.resource) t) ∧
          (∀ g x pending, l.phase = .held g x pending → 0 < e.settings.grace →
            u.records[i] =
                ⟨h.tag, some { l with
                  phase := .grace g (satAdd x e.settings.grace)
                  flags := { l.flags with warning := true } }⟩ ∧
              OtherRecords [i] s u ∧ DeadlineMoved i (some (satAdd x e.settings.grace)) s u ∧ SameTime s u ∧
              u.freePool = s.freePool ∧ u.closedOrder = s.closedOrder ∧ u.lines = s.lines ∧
              u.management = s.management ∧
              (∀ p : Port, u.ports[p].live = s.ports[p].live ∧ u.ports[p].closed = s.ports[p].closed ∧
                u.ports[p].notices =
                  s.ports[p].notices + (if p = l.port ∧ l.flags.any = false then 1 else 0)) ∧
              (pending = false → u.directory = s.directory ∧ SameOutcome u t) ∧
              (pending = true →
                u.entry l.resource = some { e with upgrade := none } ∧ OtherEntries l.resource s u ∧
                  SameOutcome (u.promote l.resource) t))

/-! Invariants. -/

/-- Every step keeps the Lease Store's lists and counts in agreement with its records: the free pool holds exactly the FREE
records, the closed order exactly the CLOSED ones, the deadline list exactly the records with a deadline, in order, and each
port's counts are those of its records, its live count within its quota (R5, R9, R10, R15 to R17, R86, R121). -/
def Obligations.StepKeepsStoreLists : Prop :=
  ∀ s t : State, PoolOk s ∧ ClosedOk s ∧ DeadlinesOk s ∧ CountsOk s → step s = .next t →
    PoolOk t ∧ ClosedOk t ∧ DeadlinesOk t ∧ CountsOk t

/-- While the clock is STOPPED every record is FREE, the deadline list is empty and the Expiry Unit is IDLE; every command keeps
this, the clock leaves STOPPED by CLOCK-START alone, and returns to it by device reset alone (R101). That the count is then 0
is R139's. -/
def Obligations.StoppedOnlyBeforeClockStart : Prop :=
  ∀ (c : Instr) (s t : State), StoppedOk s → exec c s = .next t →
    StoppedOk t ∧ StoppedOk s.refclk ∧ (s.refclk.clock.state = .stopped ↔ s.clock.state = .stopped) ∧
      (s.clock.state = .stopped → t.clock.state ≠ .stopped → c = .clockStart) ∧
      (s.clock.state ≠ .stopped → t.clock.state = .stopped →
        c = .nresetFall ∨ c = .nresetRise ∨ ∃ high, c = .powerOn high)

/-- Every step keeps the sessions and exchanges in agreement with the reset lines, the slots, the buffers and the records: a
port that is OFFLINE or IN_RESET with no reset item pending owns no record (R160), every exchange has the slot and the buffer
that the table of R155 gives its state, and HELD_AT is owed exactly while a hold is requested (R142, R143). -/
def Obligations.StepKeepsSessions : Prop :=
  ∀ s t : State, SessionsOk s → LinksOk s → ExchangesOk s → step s = .next t → SessionsOk t ∧ LinksOk t ∧ ExchangesOk t

/-- Every step keeps the guard lines in agreement with the directory: no line is bound to two entries, and a line is GAP_WAIT
or ASSERTED exactly while it is bound to a resource in state EXCLUSIVE (R27, R111, R116). -/
def Obligations.StepKeepsGuards : Prop := ∀ s t : State, GuardsOk s → step s = .next t → GuardsOk t

/-- Every step keeps the values of the directory, whose ids are distinct, the clock, the Sync Discipline and the records in their
ranges: in particular, the discipline has an origin in TRACKING and HOLDOVER and none in OFF, a hit count of at most 1 and a
miss count of at most 7 between events, and an open window of the half-width its state gives (R1, R2, R23, R27, R28, R52, R103,
R118, R136 to R138, R140, R145, R146, R150). What stands for an open window is the model's choice (log entry 8). -/
def Obligations.StepKeepsRanges : Prop :=
  ∀ s t : State, DirectoryOk s → ClockOk s → SyncOk s → RecordsOk s → step s = .next t →
    DirectoryOk t ∧ ClockOk t ∧ SyncOk t ∧ RecordsOk t

/-- Every step keeps the lease table whole: each entry's state is the one its holder list fixes, every holder and waiter is the
live record it names, no record is live on two lists, tokens of live leases are distinct and at most the counter, an EXCLUSIVE
holder's token equals it, and the head of every wait queue is one its resource cannot grant unless its counter is at the limit:
R24, with invariants from 01 section 1.7 and 03 sections 3.3 to 3.6. -/
def Obligations.StepKeepsLeaseTable : Prop :=
  ∀ s t : State, LeaseTableOk s → DirectoryOk s → step s = .next t → LeaseTableOk t

/-- While a resource stays declared its fencing counter never decreases and never passes its limit, and its tokens rise: a
record of it that holds a token it did not hold before holds one above the former counter (R103 to R105). -/
def Obligations.CountersNeverFall : Prop :=
  ∀ (c : Instr) (s t : State) (r : Nat) (e f : Entry), LeaseTableOk s → e.counter ≤ Config.tokenLimit →
    exec c s = .next t → s.entry r = some e → t.entry r = some f →
      e.counter ≤ f.counter ∧ f.counter ≤ Config.tokenLimit ∧
        ∀ h ∈ f.holders, s.tokenOf h = t.tokenOf h ∨ ∀ k, t.tokenOf h = some k → e.counter < k

/-- The state after device reset satisfies every invariant (10 section 10.7). -/
def Obligations.ResetSatisfiesInvariants : Prop :=
  PoolOk State.reset ∧ ClosedOk State.reset ∧ DeadlinesOk State.reset ∧ CountsOk State.reset ∧ ClockOk State.reset ∧
    SyncOk State.reset ∧ StoppedOk State.reset ∧ SessionsOk State.reset ∧ LinksOk State.reset ∧
    ExchangesOk State.reset ∧ GuardsOk State.reset ∧ DirectoryOk State.reset ∧ RecordsOk State.reset ∧
    LeaseTableOk State.reset
end

