-- ==== Sys2Proof/Laws/State.lean ====
section
/-!
SUPPORT. What each update of the state leaves in each field, and in the accessors, so that no later proof unfolds an update.
-/
namespace Sys2Proof.Machine

variable (s : State)

/-! setAlerts -/

@[simp] theorem State.setAlerts_records (a : AlertSet) : (s.setAlerts a).records = s.records := rfl
@[simp] theorem State.setAlerts_freePool (a : AlertSet) : (s.setAlerts a).freePool = s.freePool := rfl
@[simp] theorem State.setAlerts_closedOrder (a : AlertSet) : (s.setAlerts a).closedOrder = s.closedOrder := rfl
@[simp] theorem State.setAlerts_ports (a : AlertSet) : (s.setAlerts a).ports = s.ports := rfl
@[simp] theorem State.setAlerts_directory (a : AlertSet) : (s.setAlerts a).directory = s.directory := rfl
@[simp] theorem State.setAlerts_deadlines (a : AlertSet) : (s.setAlerts a).deadlines = s.deadlines := rfl
@[simp] theorem State.setAlerts_offer (a : AlertSet) : (s.setAlerts a).offer = s.offer := rfl
@[simp] theorem State.setAlerts_arbiter (a : AlertSet) : (s.setAlerts a).arbiter = s.arbiter := rfl
@[simp] theorem State.setAlerts_clock (a : AlertSet) : (s.setAlerts a).clock = s.clock := rfl
@[simp] theorem State.setAlerts_sync (a : AlertSet) : (s.setAlerts a).sync = s.sync := rfl
@[simp] theorem State.setAlerts_lines (a : AlertSet) : (s.setAlerts a).lines = s.lines := rfl
@[simp] theorem State.setAlerts_clients (a : AlertSet) : (s.setAlerts a).clients = s.clients := rfl
@[simp] theorem State.setAlerts_management (a : AlertSet) :
    (s.setAlerts a).management = { s.management with alerts := a } := rfl
@[simp] theorem State.setAlerts_nReset (a : AlertSet) : (s.setAlerts a).nReset = s.nReset := rfl
@[simp] theorem State.setAlerts_pending (a : AlertSet) : (s.setAlerts a).pending = s.pending := rfl

/-! putLease -/

@[simp] theorem State.putLease_records (i : Index) (new : Option Lease) :
    (s.putLease i new).records =
      s.records.set i ⟨retag s.records[i].lease new s.records[i].tag, new⟩ := rfl
@[simp] theorem State.putLease_freePool (i : Index) (new : Option Lease) :
    (s.putLease i new).freePool = refilePool i s.records[i].lease new s.freePool := rfl
@[simp] theorem State.putLease_closedOrder (i : Index) (new : Option Lease) :
    (s.putLease i new).closedOrder = refileClosed i s.records[i].lease new s.closedOrder := rfl
@[simp] theorem State.putLease_ports (i : Index) (new : Option Lease) :
    (s.putLease i new).ports = recount s.records[i].lease new s.ports := rfl
@[simp] theorem State.putLease_directory (i : Index) (new : Option Lease) :
    (s.putLease i new).directory = s.directory := rfl
@[simp] theorem State.putLease_deadlines (i : Index) (new : Option Lease) :
    (s.putLease i new).deadlines = refileDeadline i new s.deadlines := rfl
@[simp] theorem State.putLease_offer (i : Index) (new : Option Lease) : (s.putLease i new).offer = s.offer := rfl
@[simp] theorem State.putLease_arbiter (i : Index) (new : Option Lease) :
    (s.putLease i new).arbiter = s.arbiter := rfl
@[simp] theorem State.putLease_clock (i : Index) (new : Option Lease) : (s.putLease i new).clock = s.clock := rfl
@[simp] theorem State.putLease_sync (i : Index) (new : Option Lease) : (s.putLease i new).sync = s.sync := rfl
@[simp] theorem State.putLease_lines (i : Index) (new : Option Lease) : (s.putLease i new).lines = s.lines := rfl
@[simp] theorem State.putLease_clients (i : Index) (new : Option Lease) :
    (s.putLease i new).clients = s.clients := rfl
@[simp] theorem State.putLease_management (i : Index) (new : Option Lease) :
    (s.putLease i new).management = s.management := rfl
@[simp] theorem State.putLease_nReset (i : Index) (new : Option Lease) : (s.putLease i new).nReset = s.nReset := rfl
@[simp] theorem State.putLease_pending (i : Index) (new : Option Lease) :
    (s.putLease i new).pending = s.pending := rfl

/-! modifyPort -/

@[simp] theorem State.modifyPort_records (p : Port) (f : PortContext → PortContext) :
    (s.modifyPort p f).records = s.records := rfl
@[simp] theorem State.modifyPort_freePool (p : Port) (f : PortContext → PortContext) :
    (s.modifyPort p f).freePool = s.freePool := rfl
@[simp] theorem State.modifyPort_closedOrder (p : Port) (f : PortContext → PortContext) :
    (s.modifyPort p f).closedOrder = s.closedOrder := rfl
@[simp] theorem State.modifyPort_ports (p : Port) (f : PortContext → PortContext) :
    (s.modifyPort p f).ports = s.ports.set p (f s.ports[p]) := rfl
@[simp] theorem State.modifyPort_directory (p : Port) (f : PortContext → PortContext) :
    (s.modifyPort p f).directory = s.directory := rfl
@[simp] theorem State.modifyPort_deadlines (p : Port) (f : PortContext → PortContext) :
    (s.modifyPort p f).deadlines = s.deadlines := rfl
@[simp] theorem State.modifyPort_offer (p : Port) (f : PortContext → PortContext) :
    (s.modifyPort p f).offer = s.offer := rfl
@[simp] theorem State.modifyPort_arbiter (p : Port) (f : PortContext → PortContext) :
    (s.modifyPort p f).arbiter = s.arbiter := rfl
@[simp] theorem State.modifyPort_clock (p : Port) (f : PortContext → PortContext) :
    (s.modifyPort p f).clock = s.clock := rfl
@[simp] theorem State.modifyPort_sync (p : Port) (f : PortContext → PortContext) :
    (s.modifyPort p f).sync = s.sync := rfl
@[simp] theorem State.modifyPort_lines (p : Port) (f : PortContext → PortContext) :
    (s.modifyPort p f).lines = s.lines := rfl
@[simp] theorem State.modifyPort_clients (p : Port) (f : PortContext → PortContext) :
    (s.modifyPort p f).clients = s.clients := rfl
@[simp] theorem State.modifyPort_management (p : Port) (f : PortContext → PortContext) :
    (s.modifyPort p f).management = s.management := rfl
@[simp] theorem State.modifyPort_nReset (p : Port) (f : PortContext → PortContext) :
    (s.modifyPort p f).nReset = s.nReset := rfl
@[simp] theorem State.modifyPort_pending (p : Port) (f : PortContext → PortContext) :
    (s.modifyPort p f).pending = s.pending := rfl

/-! modifyEntry -/

@[simp] theorem State.modifyEntry_records (r : Nat) (f : Entry → Entry) :
    (s.modifyEntry r f).records = s.records := rfl
@[simp] theorem State.modifyEntry_freePool (r : Nat) (f : Entry → Entry) :
    (s.modifyEntry r f).freePool = s.freePool := rfl
@[simp] theorem State.modifyEntry_closedOrder (r : Nat) (f : Entry → Entry) :
    (s.modifyEntry r f).closedOrder = s.closedOrder := rfl
@[simp] theorem State.modifyEntry_ports (r : Nat) (f : Entry → Entry) : (s.modifyEntry r f).ports = s.ports := rfl
@[simp] theorem State.modifyEntry_directory (r : Nat) (f : Entry → Entry) :
    (s.modifyEntry r f).directory =
      s.directory.map (fun e => if e.resource = r then f e else e) := rfl
@[simp] theorem State.modifyEntry_deadlines (r : Nat) (f : Entry → Entry) :
    (s.modifyEntry r f).deadlines = s.deadlines := rfl
@[simp] theorem State.modifyEntry_offer (r : Nat) (f : Entry → Entry) : (s.modifyEntry r f).offer = s.offer := rfl
@[simp] theorem State.modifyEntry_arbiter (r : Nat) (f : Entry → Entry) :
    (s.modifyEntry r f).arbiter = s.arbiter := rfl
@[simp] theorem State.modifyEntry_clock (r : Nat) (f : Entry → Entry) : (s.modifyEntry r f).clock = s.clock := rfl
@[simp] theorem State.modifyEntry_sync (r : Nat) (f : Entry → Entry) : (s.modifyEntry r f).sync = s.sync := rfl
@[simp] theorem State.modifyEntry_lines (r : Nat) (f : Entry → Entry) : (s.modifyEntry r f).lines = s.lines := rfl
@[simp] theorem State.modifyEntry_clients (r : Nat) (f : Entry → Entry) :
    (s.modifyEntry r f).clients = s.clients := rfl
@[simp] theorem State.modifyEntry_management (r : Nat) (f : Entry → Entry) :
    (s.modifyEntry r f).management = s.management := rfl
@[simp] theorem State.modifyEntry_nReset (r : Nat) (f : Entry → Entry) : (s.modifyEntry r f).nReset = s.nReset := rfl
@[simp] theorem State.modifyEntry_pending (r : Nat) (f : Entry → Entry) :
    (s.modifyEntry r f).pending = s.pending := rfl

/-! modifyLine -/

@[simp] theorem State.modifyLine_records (n : LineNo) (f : GuardLine → GuardLine) :
    (s.modifyLine n f).records = s.records := rfl
@[simp] theorem State.modifyLine_freePool (n : LineNo) (f : GuardLine → GuardLine) :
    (s.modifyLine n f).freePool = s.freePool := rfl
@[simp] theorem State.modifyLine_closedOrder (n : LineNo) (f : GuardLine → GuardLine) :
    (s.modifyLine n f).closedOrder = s.closedOrder := rfl
@[simp] theorem State.modifyLine_ports (n : LineNo) (f : GuardLine → GuardLine) :
    (s.modifyLine n f).ports = s.ports := rfl
@[simp] theorem State.modifyLine_directory (n : LineNo) (f : GuardLine → GuardLine) :
    (s.modifyLine n f).directory = s.directory := rfl
@[simp] theorem State.modifyLine_deadlines (n : LineNo) (f : GuardLine → GuardLine) :
    (s.modifyLine n f).deadlines = s.deadlines := rfl
@[simp] theorem State.modifyLine_offer (n : LineNo) (f : GuardLine → GuardLine) :
    (s.modifyLine n f).offer = s.offer := rfl
@[simp] theorem State.modifyLine_arbiter (n : LineNo) (f : GuardLine → GuardLine) :
    (s.modifyLine n f).arbiter = s.arbiter := rfl
@[simp] theorem State.modifyLine_clock (n : LineNo) (f : GuardLine → GuardLine) :
    (s.modifyLine n f).clock = s.clock := rfl
@[simp] theorem State.modifyLine_sync (n : LineNo) (f : GuardLine → GuardLine) :
    (s.modifyLine n f).sync = s.sync := rfl
@[simp] theorem State.modifyLine_lines (n : LineNo) (f : GuardLine → GuardLine) :
    (s.modifyLine n f).lines = s.lines.set n (f s.lines[n]) := rfl
@[simp] theorem State.modifyLine_clients (n : LineNo) (f : GuardLine → GuardLine) :
    (s.modifyLine n f).clients = s.clients := rfl
@[simp] theorem State.modifyLine_management (n : LineNo) (f : GuardLine → GuardLine) :
    (s.modifyLine n f).management = s.management := rfl
@[simp] theorem State.modifyLine_nReset (n : LineNo) (f : GuardLine → GuardLine) :
    (s.modifyLine n f).nReset = s.nReset := rfl
@[simp] theorem State.modifyLine_pending (n : LineNo) (f : GuardLine → GuardLine) :
    (s.modifyLine n f).pending = s.pending := rfl

/-! modifyClient -/

@[simp] theorem State.modifyClient_records (p : Port) (f : ClientInterface → ClientInterface) :
    (s.modifyClient p f).records = s.records := rfl
@[simp] theorem State.modifyClient_freePool (p : Port) (f : ClientInterface → ClientInterface) :
    (s.modifyClient p f).freePool = s.freePool := rfl
@[simp] theorem State.modifyClient_closedOrder (p : Port) (f : ClientInterface → ClientInterface) :
    (s.modifyClient p f).closedOrder = s.closedOrder := rfl
@[simp] theorem State.modifyClient_ports (p : Port) (f : ClientInterface → ClientInterface) :
    (s.modifyClient p f).ports = s.ports := rfl
@[simp] theorem State.modifyClient_directory (p : Port) (f : ClientInterface → ClientInterface) :
    (s.modifyClient p f).directory = s.directory := rfl
@[simp] theorem State.modifyClient_deadlines (p : Port) (f : ClientInterface → ClientInterface) :
    (s.modifyClient p f).deadlines = s.deadlines := rfl
@[simp] theorem State.modifyClient_offer (p : Port) (f : ClientInterface → ClientInterface) :
    (s.modifyClient p f).offer = s.offer := rfl
@[simp] theorem State.modifyClient_arbiter (p : Port) (f : ClientInterface → ClientInterface) :
    (s.modifyClient p f).arbiter = s.arbiter := rfl
@[simp] theorem State.modifyClient_clock (p : Port) (f : ClientInterface → ClientInterface) :
    (s.modifyClient p f).clock = s.clock := rfl
@[simp] theorem State.modifyClient_sync (p : Port) (f : ClientInterface → ClientInterface) :
    (s.modifyClient p f).sync = s.sync := rfl
@[simp] theorem State.modifyClient_lines (p : Port) (f : ClientInterface → ClientInterface) :
    (s.modifyClient p f).lines = s.lines := rfl
@[simp] theorem State.modifyClient_clients (p : Port) (f : ClientInterface → ClientInterface) :
    (s.modifyClient p f).clients = s.clients.set p (f s.clients[p]) := rfl
@[simp] theorem State.modifyClient_management (p : Port) (f : ClientInterface → ClientInterface) :
    (s.modifyClient p f).management = s.management := rfl
@[simp] theorem State.modifyClient_nReset (p : Port) (f : ClientInterface → ClientInterface) :
    (s.modifyClient p f).nReset = s.nReset := rfl
@[simp] theorem State.modifyClient_pending (p : Port) (f : ClientInterface → ClientInterface) :
    (s.modifyClient p f).pending = s.pending := rfl

/-! setExchange -/

@[simp] theorem State.setExchange_records (l : Link) (x : Exchange) :
    (s.setExchange l x).records = s.records := by cases l <;> rfl
@[simp] theorem State.setExchange_freePool (l : Link) (x : Exchange) :
    (s.setExchange l x).freePool = s.freePool := by cases l <;> rfl
@[simp] theorem State.setExchange_closedOrder (l : Link) (x : Exchange) :
    (s.setExchange l x).closedOrder = s.closedOrder := by cases l <;> rfl
@[simp] theorem State.setExchange_ports (l : Link) (x : Exchange) :
    (s.setExchange l x).ports = s.ports := by cases l <;> rfl
@[simp] theorem State.setExchange_directory (l : Link) (x : Exchange) :
    (s.setExchange l x).directory = s.directory := by cases l <;> rfl
@[simp] theorem State.setExchange_deadlines (l : Link) (x : Exchange) :
    (s.setExchange l x).deadlines = s.deadlines := by cases l <;> rfl
@[simp] theorem State.setExchange_offer (l : Link) (x : Exchange) :
    (s.setExchange l x).offer = s.offer := by cases l <;> rfl
@[simp] theorem State.setExchange_arbiter (l : Link) (x : Exchange) :
    (s.setExchange l x).arbiter = s.arbiter := by cases l <;> rfl
@[simp] theorem State.setExchange_clock (l : Link) (x : Exchange) :
    (s.setExchange l x).clock = s.clock := by cases l <;> rfl
@[simp] theorem State.setExchange_sync (l : Link) (x : Exchange) :
    (s.setExchange l x).sync = s.sync := by cases l <;> rfl
@[simp] theorem State.setExchange_lines (l : Link) (x : Exchange) :
    (s.setExchange l x).lines = s.lines := by cases l <;> rfl
@[simp] theorem State.setExchange_nReset (l : Link) (x : Exchange) :
    (s.setExchange l x).nReset = s.nReset := by cases l <;> rfl
@[simp] theorem State.setExchange_pending (l : Link) (x : Exchange) :
    (s.setExchange l x).pending = s.pending := by cases l <;> rfl

/-! setLink -/

@[simp] theorem State.setLink_records (l : Link) (x : LinkState) :
    (s.setLink l x).records = s.records := by cases l <;> rfl
@[simp] theorem State.setLink_freePool (l : Link) (x : LinkState) :
    (s.setLink l x).freePool = s.freePool := by cases l <;> rfl
@[simp] theorem State.setLink_closedOrder (l : Link) (x : LinkState) :
    (s.setLink l x).closedOrder = s.closedOrder := by cases l <;> rfl
@[simp] theorem State.setLink_ports (l : Link) (x : LinkState) : (s.setLink l x).ports = s.ports := by cases l <;> rfl
@[simp] theorem State.setLink_directory (l : Link) (x : LinkState) :
    (s.setLink l x).directory = s.directory := by cases l <;> rfl
@[simp] theorem State.setLink_deadlines (l : Link) (x : LinkState) :
    (s.setLink l x).deadlines = s.deadlines := by cases l <;> rfl
@[simp] theorem State.setLink_offer (l : Link) (x : LinkState) : (s.setLink l x).offer = s.offer := by cases l <;> rfl
@[simp] theorem State.setLink_arbiter (l : Link) (x : LinkState) :
    (s.setLink l x).arbiter = s.arbiter := by cases l <;> rfl
@[simp] theorem State.setLink_clock (l : Link) (x : LinkState) : (s.setLink l x).clock = s.clock := by cases l <;> rfl
@[simp] theorem State.setLink_sync (l : Link) (x : LinkState) : (s.setLink l x).sync = s.sync := by cases l <;> rfl
@[simp] theorem State.setLink_lines (l : Link) (x : LinkState) : (s.setLink l x).lines = s.lines := by cases l <;> rfl
@[simp] theorem State.setLink_nReset (l : Link) (x : LinkState) :
    (s.setLink l x).nReset = s.nReset := by cases l <;> rfl
@[simp] theorem State.setLink_pending (l : Link) (x : LinkState) :
    (s.setLink l x).pending = s.pending := by cases l <;> rfl

/-! takeRequest -/

@[simp] theorem State.takeRequest_records (l : Link) : (s.takeRequest l).records = s.records := by cases l <;> rfl
@[simp] theorem State.takeRequest_freePool (l : Link) : (s.takeRequest l).freePool = s.freePool := by cases l <;> rfl
@[simp] theorem State.takeRequest_closedOrder (l : Link) :
    (s.takeRequest l).closedOrder = s.closedOrder := by cases l <;> rfl
@[simp] theorem State.takeRequest_ports (l : Link) : (s.takeRequest l).ports = s.ports := by cases l <;> rfl
@[simp] theorem State.takeRequest_directory (l : Link) :
    (s.takeRequest l).directory = s.directory := by cases l <;> rfl
@[simp] theorem State.takeRequest_deadlines (l : Link) :
    (s.takeRequest l).deadlines = s.deadlines := by cases l <;> rfl
@[simp] theorem State.takeRequest_offer (l : Link) : (s.takeRequest l).offer = s.offer := by cases l <;> rfl
@[simp] theorem State.takeRequest_arbiter (l : Link) : (s.takeRequest l).arbiter = requesterOf l := by cases l <;> rfl
@[simp] theorem State.takeRequest_clock (l : Link) : (s.takeRequest l).clock = s.clock := by cases l <;> rfl
@[simp] theorem State.takeRequest_sync (l : Link) : (s.takeRequest l).sync = s.sync := by cases l <;> rfl
@[simp] theorem State.takeRequest_lines (l : Link) : (s.takeRequest l).lines = s.lines := by cases l <;> rfl
@[simp] theorem State.takeRequest_nReset (l : Link) : (s.takeRequest l).nReset = s.nReset := by cases l <;> rfl
@[simp] theorem State.takeRequest_pending (l : Link) : (s.takeRequest l).pending = s.pending := by cases l <;> rfl

/-! undeclare -/

@[simp] theorem State.undeclare_records (r : Nat) : (s.undeclare r).records = s.records := rfl
@[simp] theorem State.undeclare_freePool (r : Nat) : (s.undeclare r).freePool = s.freePool := rfl
@[simp] theorem State.undeclare_closedOrder (r : Nat) : (s.undeclare r).closedOrder = s.closedOrder := rfl
@[simp] theorem State.undeclare_ports (r : Nat) : (s.undeclare r).ports = s.ports := rfl
@[simp] theorem State.undeclare_directory (r : Nat) :
    (s.undeclare r).directory = s.directory.filter (fun e => e.resource != r) := rfl
@[simp] theorem State.undeclare_deadlines (r : Nat) : (s.undeclare r).deadlines = s.deadlines := rfl
@[simp] theorem State.undeclare_offer (r : Nat) : (s.undeclare r).offer = s.offer := rfl
@[simp] theorem State.undeclare_arbiter (r : Nat) : (s.undeclare r).arbiter = s.arbiter := rfl
@[simp] theorem State.undeclare_clock (r : Nat) : (s.undeclare r).clock = s.clock := rfl
@[simp] theorem State.undeclare_sync (r : Nat) : (s.undeclare r).sync = s.sync := rfl
@[simp] theorem State.undeclare_lines (r : Nat) : (s.undeclare r).lines = s.lines := rfl
@[simp] theorem State.undeclare_clients (r : Nat) : (s.undeclare r).clients = s.clients := rfl
@[simp] theorem State.undeclare_management (r : Nat) : (s.undeclare r).management = s.management := rfl
@[simp] theorem State.undeclare_nReset (r : Nat) : (s.undeclare r).nReset = s.nReset := rfl
@[simp] theorem State.undeclare_pending (r : Nat) : (s.undeclare r).pending = s.pending := rfl

/-! modifyLineOf -/

@[simp] theorem State.modifyLineOf_records (e : Entry) (f : GuardLine → GuardLine) :
    (s.modifyLineOf e f).records =
      s.records := by unfold State.modifyLineOf; split <;> rfl
@[simp] theorem State.modifyLineOf_freePool (e : Entry) (f : GuardLine → GuardLine) :
    (s.modifyLineOf e f).freePool =
      s.freePool := by unfold State.modifyLineOf; split <;> rfl
@[simp] theorem State.modifyLineOf_closedOrder (e : Entry) (f : GuardLine → GuardLine) :
    (s.modifyLineOf e f).closedOrder =
      s.closedOrder := by unfold State.modifyLineOf; split <;> rfl
@[simp] theorem State.modifyLineOf_ports (e : Entry) (f : GuardLine → GuardLine) :
    (s.modifyLineOf e f).ports = s.ports := by unfold State.modifyLineOf; split <;> rfl
@[simp] theorem State.modifyLineOf_directory (e : Entry) (f : GuardLine → GuardLine) :
    (s.modifyLineOf e f).directory =
      s.directory := by unfold State.modifyLineOf; split <;> rfl
@[simp] theorem State.modifyLineOf_deadlines (e : Entry) (f : GuardLine → GuardLine) :
    (s.modifyLineOf e f).deadlines =
      s.deadlines := by unfold State.modifyLineOf; split <;> rfl
@[simp] theorem State.modifyLineOf_offer (e : Entry) (f : GuardLine → GuardLine) :
    (s.modifyLineOf e f).offer = s.offer := by unfold State.modifyLineOf; split <;> rfl
@[simp] theorem State.modifyLineOf_arbiter (e : Entry) (f : GuardLine → GuardLine) :
    (s.modifyLineOf e f).arbiter =
      s.arbiter := by unfold State.modifyLineOf; split <;> rfl
@[simp] theorem State.modifyLineOf_clock (e : Entry) (f : GuardLine → GuardLine) :
    (s.modifyLineOf e f).clock = s.clock := by unfold State.modifyLineOf; split <;> rfl
@[simp] theorem State.modifyLineOf_sync (e : Entry) (f : GuardLine → GuardLine) :
    (s.modifyLineOf e f).sync = s.sync := by unfold State.modifyLineOf; split <;> rfl
@[simp] theorem State.modifyLineOf_clients (e : Entry) (f : GuardLine → GuardLine) :
    (s.modifyLineOf e f).clients =
      s.clients := by unfold State.modifyLineOf; split <;> rfl
@[simp] theorem State.modifyLineOf_management (e : Entry) (f : GuardLine → GuardLine) :
    (s.modifyLineOf e f).management =
      s.management := by unfold State.modifyLineOf; split <;> rfl
@[simp] theorem State.modifyLineOf_nReset (e : Entry) (f : GuardLine → GuardLine) :
    (s.modifyLineOf e f).nReset = s.nReset := by unfold State.modifyLineOf; split <;> rfl
@[simp] theorem State.modifyLineOf_pending (e : Entry) (f : GuardLine → GuardLine) :
    (s.modifyLineOf e f).pending =
      s.pending := by unfold State.modifyLineOf; split <;> rfl

/-! bindLine -/

@[simp] theorem State.bindLine_records (line : Option LineNo) (r : Nat) :
    (s.bindLine line r).records = s.records := by cases line <;> rfl
@[simp] theorem State.bindLine_freePool (line : Option LineNo) (r : Nat) :
    (s.bindLine line r).freePool = s.freePool := by cases line <;> rfl
@[simp] theorem State.bindLine_closedOrder (line : Option LineNo) (r : Nat) :
    (s.bindLine line r).closedOrder = s.closedOrder := by cases line <;> rfl
@[simp] theorem State.bindLine_ports (line : Option LineNo) (r : Nat) :
    (s.bindLine line r).ports = s.ports := by cases line <;> rfl
@[simp] theorem State.bindLine_directory (line : Option LineNo) (r : Nat) :
    (s.bindLine line r).directory = s.directory := by cases line <;> rfl
@[simp] theorem State.bindLine_deadlines (line : Option LineNo) (r : Nat) :
    (s.bindLine line r).deadlines = s.deadlines := by cases line <;> rfl
@[simp] theorem State.bindLine_offer (line : Option LineNo) (r : Nat) :
    (s.bindLine line r).offer = s.offer := by cases line <;> rfl
@[simp] theorem State.bindLine_arbiter (line : Option LineNo) (r : Nat) :
    (s.bindLine line r).arbiter = s.arbiter := by cases line <;> rfl
@[simp] theorem State.bindLine_clock (line : Option LineNo) (r : Nat) :
    (s.bindLine line r).clock = s.clock := by cases line <;> rfl
@[simp] theorem State.bindLine_sync (line : Option LineNo) (r : Nat) :
    (s.bindLine line r).sync = s.sync := by cases line <;> rfl
@[simp] theorem State.bindLine_clients (line : Option LineNo) (r : Nat) :
    (s.bindLine line r).clients = s.clients := by cases line <;> rfl
@[simp] theorem State.bindLine_management (line : Option LineNo) (r : Nat) :
    (s.bindLine line r).management = s.management := by cases line <;> rfl
@[simp] theorem State.bindLine_nReset (line : Option LineNo) (r : Nat) :
    (s.bindLine line r).nReset = s.nReset := by cases line <;> rfl
@[simp] theorem State.bindLine_pending (line : Option LineNo) (r : Nat) :
    (s.bindLine line r).pending = s.pending := by cases line <;> rfl

/-! unbindLine -/

@[simp] theorem State.unbindLine_records (line : Option LineNo) :
    (s.unbindLine line).records = s.records := by cases line <;> rfl
@[simp] theorem State.unbindLine_freePool (line : Option LineNo) :
    (s.unbindLine line).freePool = s.freePool := by cases line <;> rfl
@[simp] theorem State.unbindLine_closedOrder (line : Option LineNo) :
    (s.unbindLine line).closedOrder = s.closedOrder := by cases line <;> rfl
@[simp] theorem State.unbindLine_ports (line : Option LineNo) :
    (s.unbindLine line).ports = s.ports := by cases line <;> rfl
@[simp] theorem State.unbindLine_directory (line : Option LineNo) :
    (s.unbindLine line).directory = s.directory := by cases line <;> rfl
@[simp] theorem State.unbindLine_deadlines (line : Option LineNo) :
    (s.unbindLine line).deadlines = s.deadlines := by cases line <;> rfl
@[simp] theorem State.unbindLine_offer (line : Option LineNo) :
    (s.unbindLine line).offer = s.offer := by cases line <;> rfl
@[simp] theorem State.unbindLine_arbiter (line : Option LineNo) :
    (s.unbindLine line).arbiter = s.arbiter := by cases line <;> rfl
@[simp] theorem State.unbindLine_clock (line : Option LineNo) :
    (s.unbindLine line).clock = s.clock := by cases line <;> rfl
@[simp] theorem State.unbindLine_sync (line : Option LineNo) :
    (s.unbindLine line).sync = s.sync := by cases line <;> rfl
@[simp] theorem State.unbindLine_clients (line : Option LineNo) :
    (s.unbindLine line).clients = s.clients := by cases line <;> rfl
@[simp] theorem State.unbindLine_management (line : Option LineNo) :
    (s.unbindLine line).management = s.management := by cases line <;> rfl
@[simp] theorem State.unbindLine_nReset (line : Option LineNo) :
    (s.unbindLine line).nReset = s.nReset := by cases line <;> rfl
@[simp] theorem State.unbindLine_pending (line : Option LineNo) :
    (s.unbindLine line).pending = s.pending := by cases line <;> rfl

/-! beginTick -/

@[simp] theorem State.beginTick_records : (s.beginTick).records = s.records := rfl
@[simp] theorem State.beginTick_freePool : (s.beginTick).freePool = s.freePool := rfl
@[simp] theorem State.beginTick_closedOrder : (s.beginTick).closedOrder = s.closedOrder := rfl
@[simp] theorem State.beginTick_ports : (s.beginTick).ports = s.ports := rfl
@[simp] theorem State.beginTick_directory : (s.beginTick).directory = s.directory := rfl
@[simp] theorem State.beginTick_deadlines : (s.beginTick).deadlines = s.deadlines := rfl
@[simp] theorem State.beginTick_offer : (s.beginTick).offer = s.offer := rfl
@[simp] theorem State.beginTick_arbiter : (s.beginTick).arbiter = s.arbiter := rfl
@[simp] theorem State.beginTick_clock : (s.beginTick).clock = s.clock.beginTick := rfl
@[simp] theorem State.beginTick_sync : (s.beginTick).sync = s.sync.beginTick s.clock.count := rfl
@[simp] theorem State.beginTick_lines : (s.beginTick).lines = s.lines := rfl
@[simp] theorem State.beginTick_clients : (s.beginTick).clients = s.clients := rfl
@[simp] theorem State.beginTick_management : (s.beginTick).management = s.management := rfl
@[simp] theorem State.beginTick_nReset : (s.beginTick).nReset = s.nReset := rfl
@[simp] theorem State.beginTick_pending : (s.beginTick).pending = s.pending := rfl

/-! restartTick -/

@[simp] theorem State.restartTick_records : (s.restartTick).records = s.records := rfl
@[simp] theorem State.restartTick_freePool : (s.restartTick).freePool = s.freePool := rfl
@[simp] theorem State.restartTick_closedOrder : (s.restartTick).closedOrder = s.closedOrder := rfl
@[simp] theorem State.restartTick_ports : (s.restartTick).ports = s.ports := rfl
@[simp] theorem State.restartTick_directory : (s.restartTick).directory = s.directory := rfl
@[simp] theorem State.restartTick_deadlines : (s.restartTick).deadlines = s.deadlines := rfl
@[simp] theorem State.restartTick_offer : (s.restartTick).offer = s.offer := rfl
@[simp] theorem State.restartTick_arbiter : (s.restartTick).arbiter = s.arbiter := rfl
@[simp] theorem State.restartTick_clock : (s.restartTick).clock = { s.clock with phase := ⟨0, 0, false⟩ } := rfl
@[simp] theorem State.restartTick_sync : (s.restartTick).sync = s.sync := rfl
@[simp] theorem State.restartTick_lines : (s.restartTick).lines = s.lines := rfl
@[simp] theorem State.restartTick_clients : (s.restartTick).clients = s.clients := rfl
@[simp] theorem State.restartTick_management : (s.restartTick).management = s.management := rfl
@[simp] theorem State.restartTick_nReset : (s.restartTick).nReset = s.nReset := rfl
@[simp] theorem State.restartTick_pending : (s.restartTick).pending = s.pending := rfl

/-! setOrigin -/

@[simp] theorem State.setOrigin_records : (s.setOrigin).records = s.records := rfl
@[simp] theorem State.setOrigin_freePool : (s.setOrigin).freePool = s.freePool := rfl
@[simp] theorem State.setOrigin_closedOrder : (s.setOrigin).closedOrder = s.closedOrder := rfl
@[simp] theorem State.setOrigin_ports : (s.setOrigin).ports = s.ports := rfl
@[simp] theorem State.setOrigin_directory : (s.setOrigin).directory = s.directory := rfl
@[simp] theorem State.setOrigin_deadlines : (s.setOrigin).deadlines = s.deadlines := rfl
@[simp] theorem State.setOrigin_offer : (s.setOrigin).offer = s.offer := rfl
@[simp] theorem State.setOrigin_arbiter : (s.setOrigin).arbiter = s.arbiter := rfl
@[simp] theorem State.setOrigin_clock : (s.setOrigin).clock = s.clock := rfl
@[simp] theorem State.setOrigin_sync :
    (s.setOrigin).sync = { s.sync with origin := some s.clock.count, hits := 0, misses := 0, window := none } := rfl
@[simp] theorem State.setOrigin_lines : (s.setOrigin).lines = s.lines := rfl
@[simp] theorem State.setOrigin_clients : (s.setOrigin).clients = s.clients := rfl
@[simp] theorem State.setOrigin_management : (s.setOrigin).management = s.management := rfl
@[simp] theorem State.setOrigin_nReset : (s.setOrigin).nReset = s.nReset := rfl
@[simp] theorem State.setOrigin_pending : (s.setOrigin).pending = s.pending := rfl

/-! syncHit -/

@[simp] theorem State.syncHit_records : (s.syncHit).records = s.records := by unfold State.syncHit; split <;> rfl
@[simp] theorem State.syncHit_freePool : (s.syncHit).freePool = s.freePool := by unfold State.syncHit; split <;> rfl
@[simp] theorem State.syncHit_closedOrder :
    (s.syncHit).closedOrder = s.closedOrder := by unfold State.syncHit; split <;> rfl
@[simp] theorem State.syncHit_ports : (s.syncHit).ports = s.ports := by unfold State.syncHit; split <;> rfl
@[simp] theorem State.syncHit_directory :
    (s.syncHit).directory = s.directory := by unfold State.syncHit; split <;> rfl
@[simp] theorem State.syncHit_deadlines :
    (s.syncHit).deadlines = s.deadlines := by unfold State.syncHit; split <;> rfl
@[simp] theorem State.syncHit_offer : (s.syncHit).offer = s.offer := by unfold State.syncHit; split <;> rfl
@[simp] theorem State.syncHit_arbiter : (s.syncHit).arbiter = s.arbiter := by unfold State.syncHit; split <;> rfl
@[simp] theorem State.syncHit_clock : (s.syncHit).clock = s.clock := by unfold State.syncHit; split <;> rfl
@[simp] theorem State.syncHit_sync : (s.syncHit).sync = s.sync.hit := by unfold State.syncHit; split <;> rfl
@[simp] theorem State.syncHit_lines : (s.syncHit).lines = s.lines := by unfold State.syncHit; split <;> rfl
@[simp] theorem State.syncHit_clients : (s.syncHit).clients = s.clients := by unfold State.syncHit; split <;> rfl
@[simp] theorem State.syncHit_nReset : (s.syncHit).nReset = s.nReset := by unfold State.syncHit; split <;> rfl
@[simp] theorem State.syncHit_pending : (s.syncHit).pending = s.pending := by unfold State.syncHit; split <;> rfl

/-! syncMiss -/

@[simp] theorem State.syncMiss_records : (s.syncMiss).records = s.records := by unfold State.syncMiss; split <;> rfl
@[simp] theorem State.syncMiss_freePool :
    (s.syncMiss).freePool = s.freePool := by unfold State.syncMiss; split <;> rfl
@[simp] theorem State.syncMiss_closedOrder :
    (s.syncMiss).closedOrder = s.closedOrder := by unfold State.syncMiss; split <;> rfl
@[simp] theorem State.syncMiss_ports : (s.syncMiss).ports = s.ports := by unfold State.syncMiss; split <;> rfl
@[simp] theorem State.syncMiss_directory :
    (s.syncMiss).directory = s.directory := by unfold State.syncMiss; split <;> rfl
@[simp] theorem State.syncMiss_deadlines :
    (s.syncMiss).deadlines = s.deadlines := by unfold State.syncMiss; split <;> rfl
@[simp] theorem State.syncMiss_offer : (s.syncMiss).offer = s.offer := by unfold State.syncMiss; split <;> rfl
@[simp] theorem State.syncMiss_arbiter : (s.syncMiss).arbiter = s.arbiter := by unfold State.syncMiss; split <;> rfl
@[simp] theorem State.syncMiss_clock : (s.syncMiss).clock = s.clock := by unfold State.syncMiss; split <;> rfl
@[simp] theorem State.syncMiss_sync : (s.syncMiss).sync = s.sync.miss := by unfold State.syncMiss; split <;> rfl
@[simp] theorem State.syncMiss_lines : (s.syncMiss).lines = s.lines := by unfold State.syncMiss; split <;> rfl
@[simp] theorem State.syncMiss_clients : (s.syncMiss).clients = s.clients := by unfold State.syncMiss; split <;> rfl
@[simp] theorem State.syncMiss_nReset : (s.syncMiss).nReset = s.nReset := by unfold State.syncMiss; split <;> rfl
@[simp] theorem State.syncMiss_pending : (s.syncMiss).pending = s.pending := by unfold State.syncMiss; split <;> rfl

/-! Accessors. -/

@[simp] theorem State.setExchange_exchange_self (l : Link) (x : Exchange) : (s.setExchange l x).exchange l = x := by
  cases l <;> simp [State.exchange, State.setExchange]

theorem State.setExchange_exchange_other {l m : Link} (x : Exchange) (h : m ≠ l) :
    (s.setExchange l x).exchange m = s.exchange m := by
  cases l <;> cases m <;> simp_all [State.exchange, State.setExchange, Vector.getElem_set]
  rw [if_neg (fun e => h (Fin.ext (Eq.symm e)))]

@[simp] theorem State.setExchange_link (l m : Link) (x : Exchange) : (s.setExchange l x).link m = s.link m := by
  cases l <;> cases m <;> simp [State.link, State.setExchange, Vector.getElem_set]
  split <;> simp_all

@[simp] theorem State.setLink_link_self (l : Link) (x : LinkState) : (s.setLink l x).link l = x := by
  cases l <;> simp [State.link, State.setLink]

theorem State.setLink_link_other {l m : Link} (x : LinkState) (h : m ≠ l) : (s.setLink l x).link m = s.link m := by
  cases l <;> cases m <;> simp_all [State.link, State.setLink, Vector.getElem_set]
  rw [if_neg (fun e => h (Fin.ext (Eq.symm e)))]

@[simp] theorem State.setLink_exchange (l m : Link) (x : LinkState) : (s.setLink l x).exchange m = s.exchange m := by
  cases l <;> cases m <;> simp [State.exchange, State.setLink, Vector.getElem_set]
  split <;> simp_all

@[simp] theorem State.setExchange_epochOf (l m : Link) (x : Exchange) : (s.setExchange l x).epochOf m = s.epochOf m := by
  cases l <;> cases m <;> simp [State.epochOf, State.setExchange, Vector.getElem_set]
  split <;> simp_all

@[simp] theorem State.setExchange_mute (l m : Link) (x : Exchange) : (s.setExchange l x).mute m = s.mute m := by
  cases l <;> cases m <;> simp [State.mute, State.setExchange, Vector.getElem_set]
  split <;> simp_all

@[simp] theorem State.setExchange_lapsedOf (l m : Link) (x : Exchange) : (s.setExchange l x).lapsedOf m = s.lapsedOf m := by
  cases l <;> cases m <;> rfl

@[simp] theorem State.setExchange_noticesOf (l m : Link) (x : Exchange) :
    (s.setExchange l x).noticesOf m = s.noticesOf m := by
  cases l <;> cases m <;> rfl

/-- The lease of every record is read from the records alone. -/
theorem State.lease_eq_of_records {s t : State} (h : t.records = s.records) (i : Index) : t.lease i = s.lease i := by
  simp [State.lease, h]

/-- The handle of every record is read from the records alone. -/
theorem State.handle_eq_of_records {s t : State} (h : t.records = s.records) (i : Index) : t.handle i = s.handle i := by
  simp [State.handle, h]

/-- Every entry is read from the directory alone. -/
theorem State.entry_eq_of_directory {s t : State} (h : t.directory = s.directory) (r : Nat) : t.entry r = s.entry r := by
  simp [State.entry, h]

/-- What a handle resolves to is read from the records alone. -/
theorem State.resolve_eq_of_records {s t : State} (h : t.records = s.records) (l : Link) (k : Handle) :
    t.resolve l k = s.resolve l k := by
  simp [State.resolve, State.lease, h]

@[simp] theorem State.putLease_lease_self (i : Index) (new : Option Lease) : (s.putLease i new).lease i = new := by
  simp [State.lease]

theorem State.putLease_lease_other {i j : Index} (new : Option Lease) (h : j ≠ i) :
    (s.putLease i new).lease j = s.lease j := by
  have : i.val ≠ j.val := fun e => h (Fin.ext e.symm)
  simp [State.lease, this]

@[simp] theorem State.putLease_records_self (i : Index) (new : Option Lease) :
    (s.putLease i new).records[i] = ⟨retag (s.lease i) new s.records[i].tag, new⟩ := by
  simp [State.lease]

theorem State.putLease_records_other {i j : Index} (new : Option Lease) (h : j ≠ i) :
    (s.putLease i new).records[j] = s.records[j] := by
  have : i.val ≠ j.val := fun e => h (Fin.ext e.symm)
  simp [this]

theorem State.putLease_handle_other {i j : Index} (new : Option Lease) (h : j ≠ i) :
    (s.putLease i new).handle j = s.handle j := by
  unfold State.handle
  rw [State.putLease_records_other s new h]

/-- A record that stays allocated keeps its handle (R3). -/
theorem State.putLease_handle_kept (i : Index) (new : Lease) : (s.putLease i (some new)).handle i = s.handle i := by
  unfold State.handle
  rw [State.putLease_records_self]
  cases s.lease i <;> rfl

@[simp] theorem State.putLease_entry (i : Index) (new : Option Lease) (r : Nat) :
    (s.putLease i new).entry r = s.entry r := rfl
@[simp] theorem State.putLease_exchange (i : Index) (new : Option Lease) (l : Link) :
    (s.putLease i new).exchange l = s.exchange l := by cases l <;> rfl
@[simp] theorem State.putLease_now (i : Index) (new : Option Lease) : (s.putLease i new).now = s.now := rfl

@[simp] theorem State.modifyEntry_lease (r : Nat) (f : Entry → Entry) (i : Index) :
    (s.modifyEntry r f).lease i = s.lease i := rfl
@[simp] theorem State.modifyEntry_handle (r : Nat) (f : Entry → Entry) (i : Index) :
    (s.modifyEntry r f).handle i = s.handle i := rfl
@[simp] theorem State.modifyEntry_now (r : Nat) (f : Entry → Entry) : (s.modifyEntry r f).now = s.now := rfl

@[simp] theorem State.modifyLineOf_lease (e : Entry) (f : GuardLine → GuardLine) (i : Index) :
    (s.modifyLineOf e f).lease i = s.lease i := State.lease_eq_of_records (State.modifyLineOf_records s e f) i
@[simp] theorem State.modifyLineOf_entry (e : Entry) (f : GuardLine → GuardLine) (r : Nat) :
    (s.modifyLineOf e f).entry r = s.entry r := State.entry_eq_of_directory (State.modifyLineOf_directory s e f) r

@[simp] theorem State.takeRequest_lease (l : Link) (i : Index) : (s.takeRequest l).lease i = s.lease i := by cases l <;> rfl
@[simp] theorem State.takeRequest_handle (l : Link) (i : Index) : (s.takeRequest l).handle i = s.handle i := by
  cases l <;> rfl
@[simp] theorem State.takeRequest_entry (l : Link) (r : Nat) : (s.takeRequest l).entry r = s.entry r := by cases l <;> rfl
@[simp] theorem State.takeRequest_resolve (l m : Link) (h : Handle) : (s.takeRequest l).resolve m h = s.resolve m h := by
  cases l <;> rfl
@[simp] theorem State.takeRequest_select (l : Link) (q : Option Lease → Bool) :
    (s.takeRequest l).select q = s.select q := by cases l <;> rfl
@[simp] theorem State.takeRequest_now (l : Link) : (s.takeRequest l).now = s.now := by cases l <;> rfl
@[simp] theorem State.takeRequest_epochOf (l m : Link) : (s.takeRequest l).epochOf m = s.epochOf m :=
  State.setExchange_epochOf s l m _
@[simp] theorem State.takeRequest_mute (l m : Link) : (s.takeRequest l).mute m = s.mute m := State.setExchange_mute s l m _
@[simp] theorem State.takeRequest_lapsedOf (l m : Link) : (s.takeRequest l).lapsedOf m = s.lapsedOf m := by
  cases l <;> cases m <;> rfl
@[simp] theorem State.takeRequest_noticesOf (l m : Link) : (s.takeRequest l).noticesOf m = s.noticesOf m := by
  cases l <;> cases m <;> rfl
@[simp] theorem State.takeRequest_exchange_self (l : Link) :
    (s.takeRequest l).exchange l = { s.exchange l with slot := none } := State.setExchange_exchange_self s l _
theorem State.takeRequest_exchange_other {l m : Link} (h : m ≠ l) : (s.takeRequest l).exchange m = s.exchange m :=
  State.setExchange_exchange_other s _ h


end Sys2Proof.Machine
end

