-- ==== Sys2Proof/Laws/Items.lean ====
section
/-!
SUPPORT. What a request item does whatever its kind: it is taken, executed and answered, and its frame.
-/
namespace Sys2Proof.Machine

/-- A step of a kind that the arbiter does not grant changes nothing (log entry 2). -/
theorem State.serve_of_not_granted {s : State} {k : Kind} (item : Link → Frame → State → Answer)
    (h : ∀ l f, s.grantedRequest = some (l, f) → f.kind ≠ k.code) : s.serve k item = s := by
  unfold State.serve
  split
  · rfl
  · rename_i l f hg
    rw [if_neg (h l f hg)]

/-- The item of a granted, permitted request of a suitable length is executed on the state in which it is taken, and
completed (R158, R167, R187). -/
theorem State.serve_eq {s : State} {k : Kind} {l : Link} {f : Frame} (item : Link → Frame → State → Answer)
    (h : s.serves k l f) : s.serve k item = (item l f (s.takeRequest l)).complete l f s.now := by
  obtain ⟨hg, hk, hp, hb, -⟩ := h
  unfold State.serve
  rw [hg]
  simp [hk, hp, hb]

/-- A granted request of a kind that its interface may not send (R167). -/
theorem State.serve_not_permitted {s : State} {k : Kind} {l : Link} {f : Frame} (item : Link → Frame → State → Answer)
    (hg : s.grantedRequest = some (l, f)) (hk : f.kind = k.code) (hp : k.permitted l = false) :
    s.serve k item = (refuse .notPermitted (s.takeRequest l)).complete l f s.now := by
  unfold State.serve
  rw [hg]
  simp [hk, hp]

/-- A granted request whose body has a length that does not suit its kind (R187). -/
theorem State.serve_bad_length {s : State} {k : Kind} {l : Link} {f : Frame} (item : Link → Frame → State → Answer)
    (hg : s.grantedRequest = some (l, f)) (hk : f.kind = k.code) (hp : k.permitted l = true)
    (hb : k.bodyFits f.body = false) :
    s.serve k item = (refuse .badArgument (s.takeRequest l)).complete l f s.now := by
  unfold State.serve
  rw [hg]
  simp [hk, hp, hb]

/-- `u` has the interfaces, the pointer, the pins and the queue of `s`, but for the alert set. -/
def KeepsInterfaces (s u : State) : Prop :=
  u.clients = s.clients ∧ u.management = { s.management with alerts := u.management.alerts } ∧ u.arbiter = s.arbiter ∧
    u.nReset = s.nReset ∧ u.offer = s.offer ∧ u.pending = s.pending

theorem KeepsInterfaces.refl (s : State) : KeepsInterfaces s s := ⟨rfl, rfl, rfl, rfl, rfl, rfl⟩

theorem KeepsInterfaces.trans {s u v : State} (h1 : KeepsInterfaces s u) (h2 : KeepsInterfaces u v) :
    KeepsInterfaces s v := by
  obtain ⟨a1, a2, a3, a4, a5, a6⟩ := h1
  obtain ⟨b1, b2, b3, b4, b5, b6⟩ := h2
  refine ⟨b1.trans a1, ?_, b3.trans a3, b4.trans a4, b5.trans a5, b6.trans a6⟩
  rw [b2, a2]

theorem KeepsInterfaces.exchange {s u : State} (h : KeepsInterfaces s u) (l : Link) : u.exchange l = s.exchange l := by
  obtain ⟨h1, h2, -⟩ := h
  cases l with
  | client p => simp [State.exchange, h1]
  | management => simp only [State.exchange]; rw [h2]

theorem KeepsInterfaces.mute {s u : State} (h : KeepsInterfaces s u) (l : Link) : u.mute l = s.mute l := by
  obtain ⟨h1, -⟩ := h
  cases l <;> simp [State.mute, h1]

theorem KeepsInterfaces.epochOf {s u : State} (h : KeepsInterfaces s u) (l : Link) : u.epochOf l = s.epochOf l := by
  obtain ⟨h1, -⟩ := h
  cases l <;> simp [State.epochOf, h1]

/-- An item that answers `status` and `body` with the state `u`, which keeps the interfaces: the response and the replay record
are written to its own interface and nothing else of `u` changes. -/
theorem item_answered {c : Instr} {k : Kind} {item : Link → Frame → State → Answer} {s u : State} {l : Link} {f : Frame}
    {status : Status} {body : List Byte} (hc : exec c s = .next (s.serve k item)) (h : s.serves k l f)
    (hi : item l f (s.takeRequest l) = answer status body u) (hr : recorded l f = true)
    (hk : KeepsInterfaces (s.takeRequest l) u) :
    ∃ t, exec c s = .next t ∧ Answered s t l f status body ∧ SameOutcome u t ∧ ItemFrame l s t ∧ t.clock = u.clock ∧
      t.sync = u.sync := by
  have hm : u.mute l = false := by rw [hk.mute, State.takeRequest_mute]; exact h.2.2.2.2
  have hx : u.exchange l = { s.exchange l with slot := none } := by
    rw [hk.exchange, State.takeRequest_exchange_self]
  refine ⟨u.deliver l f s.now status body, ?_, ?_, ?_, ?_, ?_, ?_⟩
  · rw [hc, State.serve_eq item h, hi]
    simp [Answer.complete, answer, hm]
  · unfold Answered State.deliver
    rw [State.setExchange_exchange_self, hx]
    simp only [hr, if_true]
    simp [responseTo, State.response, State.now]
  · unfold State.deliver SameOutcome SameTable SameStore
    cases l <;> simp [State.setExchange, State.modifyClient]
  · obtain ⟨h1, h2, h3, h4, h5, h6⟩ := hk
    refine ⟨?_, ?_, ⟨?_, ?_⟩, ?_, ?_, ?_⟩
    · simp [State.deliver, h3]
    · intro m hml
      unfold State.deliver
      rw [State.setExchange_exchange_other u _ hml]
      have : u.exchange m = (s.takeRequest l).exchange m := KeepsInterfaces.exchange ⟨h1, h2, h3, h4, h5, h6⟩ m
      rw [this, State.takeRequest_exchange_other s hml]
    · intro p
      cases l with
      | management => simp [State.deliver, State.setExchange, h1, State.takeRequest]
      | client q =>
        simp only [State.deliver, State.setExchange, State.modifyClient, h1, State.takeRequest, Fin.getElem_fin,
          Vector.getElem_set]
        split
        · rename_i hq
          have : q = p := Fin.ext hq
          subst this
          simp
        · rename_i hq
          simp
    · have hh : u.management.held = s.management.held := by rw [h2]; cases l <;> rfl
      have hl : u.management.link = s.management.link := by rw [h2]; cases l <;> rfl
      cases l <;> simp only [State.deliver, State.setExchange, State.modifyClient] <;> rw [← hh, ← hl]
    · simp [State.deliver, h4]
    · simp [State.deliver, h5]
    · simp [State.deliver, h6]
  · unfold State.deliver
    cases l <;> simp [State.setExchange, State.modifyClient]
  · unfold State.deliver
    cases l <;> simp [State.setExchange, State.modifyClient]

/-- A refusal, or a report, changes nothing but its own exchange and the pointer (R158, R168). -/
theorem item_replies_only {c : Instr} {k : Kind} {item : Link → Frame → State → Answer} {s : State} {l : Link}
    {f : Frame} {status : Status} {body : List Byte} (hc : exec c s = .next (s.serve k item)) (h : s.serves k l f)
    (hi : item l f (s.takeRequest l) = answer status body (s.takeRequest l)) (hr : recorded l f = true) :
    RepliesOnly c l f s status body := by
  obtain ⟨t, h1, h2, h3, h4, h5, h6⟩ := item_answered hc h hi hr (KeepsInterfaces.refl _)
  refine ⟨t, h1, h2, h4, ?_, ⟨?_, ?_⟩, ?_, ?_⟩
  · obtain ⟨⟨⟨a, b, c, d⟩, e, g⟩, -⟩ := h3
    refine ⟨⟨?_, ?_, ?_, ?_⟩, ?_, ?_⟩
    · rw [a]; simp
    · rw [b]; simp
    · rw [c]; simp
    · rw [d]; simp
    · rw [e]; simp
    · rw [g]; simp
  · rw [h5]; simp
  · rw [h6]; simp
  · rw [h3.2.1]; simp
  · rw [h3.2.2]; cases l <;> rfl

/-- Every kind is recorded in the replay record but a client's OPEN (R159). -/
theorem recorded_of_kind {k : Kind} {l : Link} {f : Frame} (hf : f.kind = k.code) (hk : k ≠ .openSession) :
    recorded l f = true := by
  cases l with
  | management => rfl
  | client p =>
    simp only [recorded, hf, bne_iff_ne, ne_eq]
    revert hk
    cases k <;> decide

end Sys2Proof.Machine
end

