-- ==== Sys2Proof/Laws/Store.lean ====
section
/-!
SUPPORT. The Lease Store: its scans by index, what the one write of a record does to each list and count, and that it keeps
the agreement of lists, counts and records.
-/
namespace Sys2Proof.Machine

/-! Scans. -/

theorem allIndices_eq_finRange : allIndices = List.finRange 512 := by
  apply List.ext_getElem
  · simp [allIndices]
  · intro n h1 h2
    simp only [allIndices, List.length_map, List.length_range] at h1
    apply Fin.ext
    simp [allIndices, Nat.mod_eq_of_lt h1]

@[simp] theorem mem_allIndices (i : Index) : i ∈ allIndices := by simp [allIndices_eq_finRange]

theorem allIndices_nodup : allIndices.Nodup := allIndices_eq_finRange ▸ List.nodup_finRange 512

theorem allIndices_sorted : allIndices.Pairwise (fun i j => i < j) := by
  simpa [allIndices_eq_finRange] using List.pairwise_lt_finRange 512

/-- The records with their indices, index by index. -/
theorem State.indexed_eq (s : State) : s.indexed = allIndices.map (fun i => (i, s.records[i])) := by
  apply List.ext_getElem
  · simp [State.indexed, allIndices]
  · intro n h1 h2
    simp only [State.indexed, allIndices, List.length_zip, List.length_map, List.length_range, Vector.length_toList,
      Nat.min_self] at h1
    simp [State.indexed, allIndices, Nat.mod_eq_of_lt h1]

/-- A selection is a filter of the indices by their leases. -/
theorem State.select_eq (s : State) (q : Option Lease → Bool) :
    s.select q = allIndices.filter (fun i => q (s.lease i)) := by
  simp only [State.select, State.indexed_eq, List.filter_map, List.map_map]
  have : (Prod.fst ∘ fun i => (i, s.records[i])) = (id : Index → Index) := rfl
  rw [this, List.map_id]
  rfl

/-- What a selection holds. -/
@[simp] theorem State.mem_select (s : State) (q : Option Lease → Bool) (i : Index) :
    i ∈ s.select q ↔ q (s.lease i) = true := by
  simp [State.select_eq]

/-- A selection is in ascending order of index. -/
theorem State.select_sorted (s : State) (q : Option Lease → Bool) : (s.select q).Pairwise (fun i j => i < j) := by
  rw [State.select_eq]
  exact allIndices_sorted.filter _

/-- A selection names each record once. -/
theorem State.select_nodup (s : State) (q : Option Lease → Bool) : (s.select q).Nodup := by
  rw [State.select_eq]
  exact allIndices_nodup.filter _

/-- The size of a selection is a count of indices. -/
theorem State.select_length (s : State) (q : Option Lease → Bool) :
    (s.select q).length = allIndices.countP (fun i => q (s.lease i)) := by
  rw [State.select_eq, List.countP_eq_length_filter]

/-- A selection is read from the records alone. -/
theorem State.select_eq_of_records {s t : State} (h : t.records = s.records) (q : Option Lease → Bool) :
    t.select q = s.select q := by
  simp [State.select, State.indexed, h]

theorem any_lease {x : Option Lease} {q : Lease → Bool} : x.any q = true ↔ ∃ l, x = some l ∧ q l = true := by
  cases x <;> simp

/-- The records that a port owns (R8). -/
theorem State.mem_ownedBy (s : State) (p : Port) (i : Index) :
    i ∈ s.ownedBy p ↔ ∃ l, s.lease i = some l ∧ l.port = p := by
  simp [State.ownedBy, any_lease]

/-- The record that `liveOn` finds is live, on the resource, and the port's. -/
theorem State.liveAt_of_liveOn {s : State} {p : Port} {r : Nat} {i : Index} (h : s.liveOn p r = some i) :
    LiveAt s p r i := by
  have hm : i ∈ s.select (fun x => x.any (fun l => l.port == p && l.resource == r && l.phase.isLive)) :=
    List.mem_of_head? h
  simp only [State.mem_select, any_lease, Bool.and_eq_true, beq_iff_eq] at hm
  obtain ⟨l, hl, ⟨hp, hr⟩, hv⟩ := hm
  exact ⟨l, hl, hp, hr, hv⟩

/-- Where `liveOn` finds nothing, the port has no live record on the resource. -/
theorem State.liveOn_eq_none {s : State} {p : Port} {r : Nat} : s.liveOn p r = none ↔ ∀ i, ¬ LiveAt s p r i := by
  constructor
  · rintro h i ⟨l, hl, hp, hr, hv⟩
    have hm : i ∈ s.select (fun x => x.any (fun l => l.port == p && l.resource == r && l.phase.isLive)) := by
      simp only [State.mem_select, any_lease, Bool.and_eq_true, beq_iff_eq]
      exact ⟨l, hl, ⟨hp, hr⟩, hv⟩
    rw [List.head?_eq_none_iff.mp h] at hm
    exact List.not_mem_nil hm
  · intro h
    cases hc : s.liveOn p r with
    | none => rfl
    | some i => exact absurd (State.liveAt_of_liveOn hc) (h i)

/-- The count of a port's leases that satisfy `q`, as a selection. -/
theorem State.countOf_eq (s : State) (p : Port) (q : Lease → Bool) :
    s.countOf p q = (s.select (fun x => x.any (fun l => l.port == p && q l))).length := by
  rw [State.select_length, State.countOf]
  apply List.countP_congr
  intro i _
  cases s.lease i <;> simp

/-! The deadline list. -/

theorem mem_insertDeadline (x y : DeadlineItem) (l : List DeadlineItem) :
    y ∈ insertDeadline x l ↔ y = x ∨ y ∈ l := by
  induction l with
  | nil => simp [insertDeadline]
  | cons z zs ih =>
    simp only [insertDeadline]
    split
    · simp
    · simp [ih]
      tauto

theorem mem_removeDeadline (i : Index) (y : DeadlineItem) (l : List DeadlineItem) :
    y ∈ removeDeadline i l ↔ y ∈ l ∧ y.index ≠ i := by
  simp [removeDeadline]

/-- After a record is refiled it stands in the list with its new deadline, if it has one, and the others stay (R86). -/
theorem mem_refileDeadline (i : Index) (new : Option Lease) (l : List DeadlineItem) (y : DeadlineItem) :
    y ∈ refileDeadline i new l ↔
      (y.index = i ∧ new.bind (fun x => x.phase.deadline) = some y.deadline) ∨ (y.index ≠ i ∧ y ∈ l) := by
  unfold refileDeadline
  cases hd : new.bind (fun x => x.phase.deadline) with
  | none => simp [mem_removeDeadline, and_comm]
  | some d =>
    simp only [mem_insertDeadline, mem_removeDeadline, Option.some.injEq]
    constructor
    · rintro (rfl | ⟨h1, h2⟩)
      · exact .inl ⟨rfl, rfl⟩
      · exact .inr ⟨h2, h1⟩
    · rintro (⟨h1, h2⟩ | ⟨h1, h2⟩)
      · left; cases y; simp_all
      · exact .inr ⟨h2, h1⟩

theorem DeadlineItem.before_iff {a b : DeadlineItem} :
    a.before b = true ↔ a.deadline < b.deadline ∨ (a.deadline = b.deadline ∧ a.index < b.index) := by
  simp [DeadlineItem.before]

theorem DeadlineItem.before_trans {a b c : DeadlineItem} (h1 : a.before b = true) (h2 : b.before c = true) :
    a.before c = true := by
  rw [DeadlineItem.before_iff] at *
  rcases h1 with h1 | ⟨h1, h1'⟩ <;> rcases h2 with h2 | ⟨h2, h2'⟩
  · exact .inl (h1.trans h2)
  · exact .inl (h2 ▸ h1)
  · exact .inl (h1 ▸ h2)
  · exact .inr ⟨h1.trans h2, h1'.trans h2'⟩

theorem DeadlineItem.before_total {a b : DeadlineItem} (h : ¬ a.before b = true) (hi : a.index ≠ b.index) :
    b.before a = true := by
  rw [DeadlineItem.before_iff] at *
  rcases Nat.lt_trichotomy a.deadline b.deadline with hd | hd | hd
  · exact absurd (.inl hd) h
  · rcases lt_trichotomy a.index b.index with hx | hx | hx
    · exact absurd (.inr ⟨hd, hx⟩) h
    · exact absurd hx hi
    · exact .inr ⟨hd.symm, hx⟩
  · exact .inl hd

theorem insertDeadline_sorted {x : DeadlineItem} {l : List DeadlineItem}
    (hs : l.Pairwise (fun a b => a.before b = true)) (hx : ∀ y ∈ l, y.index ≠ x.index) :
    (insertDeadline x l).Pairwise (fun a b => a.before b = true) := by
  induction l with
  | nil => simp [insertDeadline]
  | cons z zs ih =>
    obtain ⟨h1, h2⟩ := List.pairwise_cons.mp hs
    simp only [insertDeadline]
    split
    · rename_i hb
      refine List.pairwise_cons.mpr ⟨?_, hs⟩
      intro y hy
      rcases List.mem_cons.mp hy with rfl | hy
      · exact hb
      · exact DeadlineItem.before_trans hb (h1 y hy)
    · rename_i hb
      refine List.pairwise_cons.mpr ⟨?_, ih h2 (fun y hy => hx y (List.mem_cons_of_mem _ hy))⟩
      intro y hy
      rcases (mem_insertDeadline x y zs).mp hy with rfl | hy
      · exact DeadlineItem.before_total hb (fun e => hx z (List.mem_cons_self ..) e.symm)
      · exact h1 y hy

/-- Refiling a record keeps the order of the list (R86). -/
theorem refileDeadline_sorted {l : List DeadlineItem} (i : Index) (new : Option Lease)
    (hs : l.Pairwise (fun a b => a.before b = true)) :
    (refileDeadline i new l).Pairwise (fun a b => a.before b = true) := by
  unfold refileDeadline
  have hr : (removeDeadline i l).Pairwise (fun a b => a.before b = true) := hs.filter _
  split
  · refine insertDeadline_sorted hr (fun y hy => ?_)
    exact ((mem_removeDeadline i y l).mp hy).2
  · exact hr

/-! The one write keeps the lists in agreement with the records. -/

/-- Writing a record keeps the free pool (R5, R9). -/
theorem State.putLease_poolOk {s : State} (i : Index) (new : Option Lease) (h : PoolOk s) : PoolOk (s.putLease i new) := by
  obtain ⟨hn, hm⟩ := h
  have hi := hm i
  unfold State.lease at hi
  constructor
  · rw [State.putLease_freePool]
    unfold refilePool
    split
    · exact hn.erase _
    · rename_i x hx
      refine List.nodup_append.mpr ⟨hn, by simp, ?_⟩
      rintro a ha b hb rfl
      have : i ∈ s.freePool := by simpa [List.mem_singleton.mp hb] using ha
      rw [hi] at this
      simp_all
    · exact hn
    · exact hn
  · intro j
    by_cases hj : j = i
    · subst hj
      rw [State.putLease_lease_self, State.putLease_freePool]
      unfold refilePool
      split <;> simp_all [hn.mem_erase_iff]
    · rw [State.putLease_lease_other s new hj, ← hm j, State.putLease_freePool]
      unfold refilePool
      split <;> simp [hn.mem_erase_iff, hj]

/-- Writing a record keeps the closed order (R10). -/
theorem State.putLease_closedOk {s : State} (i : Index) (new : Option Lease) (h : ClosedOk s) :
    ClosedOk (s.putLease i new) := by
  obtain ⟨hn, hm⟩ := h
  have hi := hm i
  unfold State.lease at hi
  constructor
  · rw [State.putLease_closedOrder]
    unfold refileClosed
    split
    · rename_i hf _
      refine List.nodup_append.mpr ⟨hn, by simp, ?_⟩
      rintro a ha b hb rfl
      have : i ∈ s.closedOrder := by simpa [List.mem_singleton.mp hb] using ha
      rw [hi] at this
      simp_all
    · exact hn.erase _
    · exact hn
    · exact hn
  · intro j
    by_cases hj : j = i
    · subst hj
      rw [State.putLease_lease_self, State.putLease_closedOrder]
      unfold refileClosed
      split <;> simp_all [hn.mem_erase_iff]
    · rw [State.putLease_lease_other s new hj, ← hm j, State.putLease_closedOrder]
      unfold refileClosed
      split <;> simp [hn.mem_erase_iff, hj]

/-- Writing a record moves it in the deadline list as its deadline says (R88 to R90). -/
theorem State.putLease_deadlineMoved (s : State) (i : Index) (new : Option Lease) :
    DeadlineMoved i (new.bind (fun x => x.phase.deadline)) s (s.putLease i new) := by
  intro x
  rw [State.putLease_deadlines, mem_refileDeadline]

/-- Writing a record keeps the deadline list (R86). -/
theorem State.putLease_deadlinesOk {s : State} (i : Index) (new : Option Lease) (h : DeadlinesOk s) :
    DeadlinesOk (s.putLease i new) := by
  refine ⟨refileDeadline_sorted i new h.1, ?_⟩
  intro d j
  rw [State.putLease_deadlines, mem_refileDeadline]
  by_cases hj : j = i
  · subst hj
    simp [Option.bind_eq_some_iff]
  · simp [hj, State.putLease_lease_other s new hj, h.2 d j]

/-! The counts. -/

/-- 1 where a lease is port `p`'s and satisfies `q`, else 0. -/
def leaseOne (p : Port) (q : Lease → Bool) (x : Option Lease) : Nat :=
  match x with
  | some l => if l.port == p && q l then 1 else 0
  | none => 0

theorem countP_update {α : Type} [DecidableEq α] (f g : α → Bool) (a : α) (l : List α) (hn : l.Nodup) (ha : a ∈ l)
    (h : ∀ b, b ≠ a → g b = f b) :
    l.countP g + (if f a then 1 else 0) = l.countP f + (if g a then 1 else 0) := by
  induction l with
  | nil => simp at ha
  | cons b bs ih =>
    obtain ⟨hb, hbs⟩ := List.nodup_cons.mp hn
    simp only [List.countP_cons]
    by_cases hab : b = a
    · subst hab
      have : bs.countP g = bs.countP f := by
        apply List.countP_congr
        intro c hc
        rw [h c (fun e => hb (e ▸ hc))]
      omega
    · have ha' : a ∈ bs := by
        rcases List.mem_cons.mp ha with rfl | hm
        · exact absurd rfl hab
        · exact hm
      have := ih hbs ha'
      rw [h b hab]
      omega

/-- The count of a port's leases after one record is written. -/
theorem State.countOf_putLease (s : State) (i : Index) (new : Option Lease) (p : Port) (q : Lease → Bool) :
    (s.putLease i new).countOf p q + leaseOne p q (s.lease i) = s.countOf p q + leaseOne p q new := by
  have h := countP_update
    (fun j => match s.lease j with | some l => l.port == p && q l | none => false)
    (fun j => match (s.putLease i new).lease j with | some l => l.port == p && q l | none => false)
    i allIndices allIndices_nodup (mem_allIndices i)
    (fun b hb => by simp only [State.putLease_lease_other s new hb])
  simp only [State.putLease_lease_self] at h
  unfold State.countOf
  refine Eq.trans (Eq.trans ?_ h) ?_
  · congr 1
    cases s.lease i <;> simp [leaseOne]
  · congr 1
    cases new <;> simp [leaseOne]

/-- The live, closed and notice counts of a port after one record is written. -/
theorem recount_counts (old new : Option Lease) (ports : Vector PortContext 8) (p : Port) :
    (recount old new ports)[p].live =
        ports[p].live + leaseOne p (fun l => l.phase.isLive) new - leaseOne p (fun l => l.phase.isLive) old ∧
      (recount old new ports)[p].closed =
        ports[p].closed + leaseOne p (fun l => l.phase.isClosed) new - leaseOne p (fun l => l.phase.isClosed) old ∧
      (recount old new ports)[p].notices =
        ports[p].notices + leaseOne p (fun l => l.flags.any) new - leaseOne p (fun l => l.flags.any) old ∧
      (recount old new ports)[p].quota = ports[p].quota ∧ (recount old new ports)[p].lapsed = ports[p].lapsed := by
  have hne : ∀ {a b : Port}, a ≠ b → a.val ≠ b.val := fun h e => h (Fin.ext e)
  cases old with
  | none =>
    cases new with
    | none => simp [recount, leaseOne]
    | some l =>
      by_cases hl : l.port = p
      · subst hl
        simp [recount, leaseOne, PortContext.gain, Lease.liveOne, Lease.closedOne, Lease.noticeOne]
      · simp [recount, leaseOne, hl, hne hl]
  | some m =>
    cases new with
    | none =>
      by_cases hm : m.port = p
      · subst hm
        simp [recount, leaseOne, PortContext.lose, Lease.liveOne, Lease.closedOne, Lease.noticeOne]
      · simp [recount, leaseOne, hm, hne hm]
    | some l =>
      by_cases hl : l.port = p
      · by_cases hm : m.port = p
        · subst hl
          simp [recount, leaseOne, hm, PortContext.gain, PortContext.lose, Lease.liveOne, Lease.closedOne, Lease.noticeOne]
        · subst hl
          simp [recount, leaseOne, hm, hne hm, PortContext.gain, Lease.liveOne, Lease.closedOne, Lease.noticeOne]
      · by_cases hm : m.port = p
        · subst hm
          simp [recount, leaseOne, hl, hne hl, PortContext.lose, Lease.liveOne, Lease.closedOne, Lease.noticeOne]
        · simp [recount, leaseOne, hl, hm, hne hl, hne hm]

/-- Writing a record keeps the agreement of every port's counts with its records (R15, R17, R121). -/
theorem State.putLease_counts {s : State} (i : Index) (new : Option Lease) (p : Port)
    (h : s.ports[p].live = s.countOf p (fun l => l.phase.isLive) ∧
      s.ports[p].closed = s.countOf p (fun l => l.phase.isClosed) ∧
      s.ports[p].notices = s.countOf p (fun l => l.flags.any)) :
    (s.putLease i new).ports[p].live = (s.putLease i new).countOf p (fun l => l.phase.isLive) ∧
      (s.putLease i new).ports[p].closed = (s.putLease i new).countOf p (fun l => l.phase.isClosed) ∧
      (s.putLease i new).ports[p].notices = (s.putLease i new).countOf p (fun l => l.flags.any) := by
  obtain ⟨h1, h2, h3⟩ := h
  obtain ⟨r1, r2, r3, -, -⟩ := recount_counts s.records[i].lease new s.ports p
  have c1 := State.countOf_putLease s i new p (fun l => l.phase.isLive)
  have c2 := State.countOf_putLease s i new p (fun l => l.phase.isClosed)
  have c3 := State.countOf_putLease s i new p (fun l => l.flags.any)
  simp only [State.lease] at c1 c2 c3
  simp only [State.putLease_ports, r1, r2, r3, h1, h2, h3]
  omega

end Sys2Proof.Machine
end

