-- ==== Sys2Proof/Laws/Directory.lean ====
section
/-!
SUPPORT. Entries under their updates, what re-establishing an entry's state does, and what promotion, freeing and closing
leave unchanged.
-/
namespace Sys2Proof.Machine

/-! Entries. -/

/-- The entry found for an id carries that id (R27). -/
theorem State.entry_resource {s : State} {r : Nat} {e : Entry} (h : s.entry r = some e) : e.resource = r := by
  simpa using List.find?_some h

/-- The entry found for an id is one of the directory's. -/
theorem State.entry_mem {s : State} {r : Nat} {e : Entry} (h : s.entry r = some e) : e ∈ s.directory :=
  List.mem_of_find?_eq_some h

/-- An entry under a change of the entries of one id that keeps the id. -/
theorem State.modifyEntry_entry (s : State) (r q : Nat) (f : Entry → Entry) (hf : ∀ e, (f e).resource = e.resource) :
    (s.modifyEntry r f).entry q = if q = r then (s.entry r).map f else s.entry q := by
  unfold State.entry
  rw [State.modifyEntry_directory]
  induction s.directory with
  | nil => simp
  | cons e es ih =>
    simp only [List.map_cons, List.find?_cons]
    by_cases he : e.resource = r
    · by_cases hq : q = r
      · simp [he, hf, hq]
      · rw [if_pos he]
        have h1 : ((f e).resource == q) = false := by simp [hf, he, Ne.symm hq]
        have h2 : (e.resource == q) = false := by simp [he, Ne.symm hq]
        rw [h1, h2]
        simpa [hq] using ih
    · rw [if_neg he]
      have h1 : (e.resource == r) = false := by simpa using he
      rw [h1]
      by_cases hq : q = r
      · subst hq
        rw [h1]
        simpa using ih
      · cases hb : (e.resource == q) with
        | true => simp [hq]
        | false => simpa [hq] using ih

/-- The change of an entry's state changes no other entry and keeps every other field of the entry. -/
theorem State.modifyEntry_ids (s : State) (r : Nat) (f : Entry → Entry) (hf : ∀ e, (f e).resource = e.resource) :
    (s.modifyEntry r f).directory.map Entry.resource = s.directory.map Entry.resource := by
  rw [State.modifyEntry_directory, List.map_map]
  apply List.map_congr_left
  intro e _
  simp only [Function.comp_apply]
  split <;> simp [hf]

/-! Re-establishing an entry's state (R24, R26). -/

/-- What `restate` changes: the state of one entry, and the guard line bound to it. -/
theorem State.restate_frame (s : State) (r : Nat) :
    s.restate r = { s with directory := (s.restate r).directory, lines := (s.restate r).lines } := by
  unfold State.restate
  split
  · rfl
  · rename_i e _
    simp only
    split
    · unfold State.modifyLineOf
      split <;> rfl
    · split
      · unfold State.modifyLineOf
        split <;> rfl
      · rfl

@[simp] theorem State.restate_records (s : State) (r : Nat) : (s.restate r).records = s.records := by
  rw [State.restate_frame]
@[simp] theorem State.restate_freePool (s : State) (r : Nat) : (s.restate r).freePool = s.freePool := by
  rw [State.restate_frame]
@[simp] theorem State.restate_closedOrder (s : State) (r : Nat) : (s.restate r).closedOrder = s.closedOrder := by
  rw [State.restate_frame]
@[simp] theorem State.restate_deadlines (s : State) (r : Nat) : (s.restate r).deadlines = s.deadlines := by
  rw [State.restate_frame]
@[simp] theorem State.restate_ports (s : State) (r : Nat) : (s.restate r).ports = s.ports := by rw [State.restate_frame]
@[simp] theorem State.restate_clock (s : State) (r : Nat) : (s.restate r).clock = s.clock := by rw [State.restate_frame]
@[simp] theorem State.restate_sync (s : State) (r : Nat) : (s.restate r).sync = s.sync := by rw [State.restate_frame]
@[simp] theorem State.restate_management (s : State) (r : Nat) : (s.restate r).management = s.management := by
  rw [State.restate_frame]
@[simp] theorem State.restate_lease (s : State) (r : Nat) (i : Index) : (s.restate r).lease i = s.lease i :=
  State.lease_eq_of_records (State.restate_records s r) i
@[simp] theorem State.restate_handle (s : State) (r : Nat) (i : Index) : (s.restate r).handle i = s.handle i :=
  State.handle_eq_of_records (State.restate_records s r) i

theorem State.restate_keepsInterfaces (s : State) (r : Nat) : KeepsInterfaces s (s.restate r) := by
  rw [State.restate_frame]
  exact ⟨rfl, rfl, rfl, rfl, rfl, rfl⟩

/-- The directory after `restate`: the entry has the state its holder list fixes, and the others are as they were (R24). -/
theorem State.restate_entry (s : State) (r q : Nat) :
    (s.restate r).entry q =
      if q = r then (s.entry r).map (fun e => { e with state := s.holdingState e.holders }) else s.entry q := by
  unfold State.restate
  cases he : s.entry r with
  | none =>
    simp only
    split
    · subst_vars; simp [he]
    · rfl
  | some e =>
    have hm := State.modifyEntry_entry s r q (fun x => { x with state := s.holdingState e.holders }) (fun _ => rfl)
    rw [he] at hm
    simp only [Option.map_some]
    split
    · rw [State.modifyLineOf_entry, hm]; rfl
    · split
      · rw [State.modifyLineOf_entry, hm]; rfl
      · rw [hm]; rfl

/-- The guard lines after `restate`: the line bound to the entry is told of a passage into or out of EXCLUSIVE (R26). -/
theorem State.restate_lines (s : State) (r : Nat) (e : Entry) (he : s.entry r = some e) :
    (s.restate r).lines =
      match e.settings.guardLine with
      | none => s.lines
      | some n =>
        if e.state = .exclusive ∧ s.holdingState e.holders ≠ .exclusive then
          s.lines.set n (s.lines[n].exclusiveEnd s.clock.count)
        else if e.state ≠ .exclusive ∧ s.holdingState e.holders = .exclusive then
          s.lines.set n (s.lines[n].exclusiveBegin e.settings.guardGap s.clock.count)
        else s.lines := by
  unfold State.restate
  rw [he]
  simp only [State.modifyLineOf, State.now]
  split <;> split <;> (try split) <;> simp_all [State.modifyEntry, State.modifyLine]

/-! What promotion leaves unchanged. -/

/-- `t` has what promotion never touches as `s` has it: the free pool, the closed order, the clock, the tags, which records are
FREE, and of every port the quota, the lapsed-unseen, live and closed counts (R57 to R62). -/
def PromotionKeeps (s t : State) : Prop :=
  t.freePool = s.freePool ∧ t.closedOrder = s.closedOrder ∧ SameTime s t ∧ KeepsInterfaces s t ∧
    (∀ i, t.handle i = s.handle i) ∧ (∀ i, t.lease i = none ↔ s.lease i = none) ∧
    ∀ p : Port, t.ports[p].quota = s.ports[p].quota ∧ t.ports[p].lapsed = s.ports[p].lapsed ∧
      t.ports[p].live = s.ports[p].live ∧ t.ports[p].closed = s.ports[p].closed

theorem PromotionKeeps.refl (s : State) : PromotionKeeps s s :=
  ⟨rfl, rfl, ⟨rfl, rfl⟩, KeepsInterfaces.refl s, fun _ => rfl, fun _ => Iff.rfl, fun _ => ⟨rfl, rfl, rfl, rfl⟩⟩

theorem PromotionKeeps.trans {s u v : State} (h1 : PromotionKeeps s u) (h2 : PromotionKeeps u v) : PromotionKeeps s v := by
  obtain ⟨a1, a2, ⟨a3, a4⟩, a5, a6, a7, a8⟩ := h1
  obtain ⟨b1, b2, ⟨b3, b4⟩, b5, b6, b7, b8⟩ := h2
  refine ⟨b1.trans a1, b2.trans a2, ⟨b3.trans a3, b4.trans a4⟩, a5.trans b5, fun i => (b6 i).trans (a6 i),
    fun i => (b7 i).trans (a7 i), fun p => ?_⟩
  obtain ⟨c1, c2, c3, c4⟩ := a8 p
  obtain ⟨d1, d2, d3, d4⟩ := b8 p
  exact ⟨d1.trans c1, d2.trans c2, d3.trans c3, d4.trans c4⟩

theorem PromotionKeeps.restate (s : State) (r : Nat) : PromotionKeeps s (s.restate r) :=
  ⟨by simp, by simp, ⟨by simp, by simp⟩, State.restate_keepsInterfaces s r, fun i => by simp, fun i => by simp,
    fun p => by simp⟩

theorem PromotionKeeps.modifyEntry (s : State) (r : Nat) (f : Entry → Entry) : PromotionKeeps s (s.modifyEntry r f) :=
  ⟨rfl, rfl, ⟨rfl, rfl⟩, ⟨rfl, rfl, rfl, rfl, rfl, rfl⟩, fun _ => rfl, fun _ => Iff.rfl, fun _ => ⟨rfl, rfl, rfl, rfl⟩⟩

theorem PromotionKeeps.postTokenLimit (s : State) (r : Nat) : PromotionKeeps s (s.postTokenLimit r) :=
  ⟨rfl, rfl, ⟨rfl, rfl⟩, ⟨rfl, rfl, rfl, rfl, rfl, rfl⟩, fun _ => rfl, fun _ => Iff.rfl, fun _ => ⟨rfl, rfl, rfl, rfl⟩⟩

/-- A live lease replaced by a live lease of the same port. -/
theorem PromotionKeeps.putLease {s : State} {i : Index} {l m : Lease} (h : s.lease i = some l) (hp : m.port = l.port)
    (hl : l.phase.isLive = true) (hm : m.phase.isLive = true) : PromotionKeeps s (s.putLease i (some m)) := by
  have hr : s.records[i].lease = some l := h
  have hlc : l.phase.isClosed = false := by simpa [LeasePhase.isLive] using hl
  have hmc : m.phase.isClosed = false := by simpa [LeasePhase.isLive] using hm
  refine ⟨?_, ?_, ⟨rfl, rfl⟩, ⟨rfl, rfl, rfl, rfl, rfl, rfl⟩, ?_, ?_, ?_⟩
  · rw [State.putLease_freePool, hr]; rfl
  · rw [State.putLease_closedOrder, hr]
    simp [refileClosed, leaseClosed, hlc, hmc]
  · intro j
    by_cases hj : j = i
    · subst hj; exact State.putLease_handle_kept s j m
    · exact State.putLease_handle_other s _ hj
  · intro j
    by_cases hj : j = i
    · subst hj; simp [h]
    · rw [State.putLease_lease_other s _ hj]
  · intro p
    obtain ⟨c1, c2, c3, c4, c5⟩ := recount_counts s.records[i].lease (some m) s.ports p
    rw [State.putLease_ports]
    refine ⟨c4, c5, ?_, ?_⟩
    · rw [c1, hr]; simp [leaseOne, hp, hl, hm]
    · rw [c2, hr]; simp [leaseOne, hlc, hmc]

theorem PromotionKeeps.then_restate {s u : State} {r : Nat} (h : PromotionKeeps s u) : PromotionKeeps s (u.restate r) :=
  h.trans (PromotionKeeps.restate u r)

theorem PromotionKeeps.then_modifyEntry {s u : State} {r : Nat} {f : Entry → Entry} (h : PromotionKeeps s u) :
    PromotionKeeps s (u.modifyEntry r f) :=
  h.trans (PromotionKeeps.modifyEntry u r f)

theorem PromotionKeeps.then_putLease {s u : State} {i : Index} {l m : Lease} (h : PromotionKeeps s u)
    (hl : u.lease i = some l) (hp : m.port = l.port) (h1 : l.phase.isLive = true) (h2 : m.phase.isLive = true) :
    PromotionKeeps s (u.putLease i (some m)) :=
  h.trans (PromotionKeeps.putLease hl hp h1 h2)

theorem PromotionKeeps.grantHead {s : State} {r : Nat} {h : Handle} {l : Lease} {d : Option Nat} (token : Nat)
    (hl : s.lease h.index = some l) (hw : l.phase = .waiting d) : PromotionKeeps s (s.grantHead r h l token) := by
  unfold State.grantHead
  apply PromotionKeeps.then_restate
  apply PromotionKeeps.then_putLease (l := l) (PromotionKeeps.then_modifyEntry (PromotionKeeps.refl s))
  · exact hl
  · rfl
  · simp [hw, LeasePhase.isLive, LeasePhase.isClosed]
  · rfl

theorem PromotionKeeps.makeExclusive {s : State} {r : Nat} {h : Handle} {l : Lease} {g : Grant} {d : Nat} {u : Bool}
    (deadline token : Nat) (told : Bool) (hl : s.lease h.index = some l) (hh : l.phase = .held g d u) :
    PromotionKeeps s (s.makeExclusive r h l deadline token told) := by
  unfold State.makeExclusive
  apply PromotionKeeps.then_restate
  apply PromotionKeeps.then_putLease (l := l) (PromotionKeeps.then_modifyEntry (PromotionKeeps.refl s))
  · exact hl
  · rfl
  · simp [hh, LeasePhase.isLive, LeasePhase.isClosed]
  · rfl

theorem PromotionKeeps.promoteWaiters (r : Nat) (fuel : Nat) (s : State) : PromotionKeeps s (s.promoteWaiters r fuel) := by
  induction fuel generalizing s with
  | zero => exact PromotionKeeps.refl s
  | succ fuel ih =>
    unfold State.promoteWaiters
    split
    · exact PromotionKeeps.refl s
    · split
      · exact PromotionKeeps.refl s
      · split
        · exact PromotionKeeps.refl s
        · rename_i l hl
          split
          · rename_i d hd
            split
            · split
              · exact (PromotionKeeps.grantHead _ hl hd).trans (ih _)
              · exact PromotionKeeps.postTokenLimit s r
            · exact PromotionKeeps.refl s
          · exact PromotionKeeps.refl s
          · exact PromotionKeeps.refl s
          · exact PromotionKeeps.refl s

/-- What promotion leaves unchanged, on any resource in any state. -/
theorem PromotionKeeps.promote (r : Nat) (s : State) : PromotionKeeps s (s.promote r) := by
  unfold State.promote
  split
  · exact PromotionKeeps.refl s
  · split
    · unfold State.promoteUpgrade
      split
      · split
        · exact PromotionKeeps.refl s
        · rename_i l hl
          split
          · rename_i g d u hh
            split
            · exact PromotionKeeps.makeExclusive _ _ _ hl hh
            · exact PromotionKeeps.postTokenLimit s r
          · exact PromotionKeeps.refl s
          · exact PromotionKeeps.refl s
          · exact PromotionKeeps.refl s
      · exact PromotionKeeps.refl s
    · exact PromotionKeeps.promoteWaiters r _ s

/-! Freeing and closing leave the interfaces and the time. -/

theorem State.freeRecord_keeps (s : State) (i : Index) (l : Lease) :
    KeepsInterfaces s (s.freeRecord i l) ∧ SameTime s (s.freeRecord i l) := by
  unfold State.freeRecord
  split
  · exact ⟨KeepsInterfaces.trans ⟨rfl, rfl, rfl, rfl, rfl, rfl⟩ (State.restate_keepsInterfaces _ _), by simp [SameTime]⟩
  · exact ⟨⟨rfl, rfl, rfl, rfl, rfl, rfl⟩, ⟨rfl, rfl⟩⟩

theorem State.freeWithPort_keeps (s : State) (i : Index) :
    KeepsInterfaces s (s.freeWithPort i) ∧ SameTime s (s.freeWithPort i) := by
  unfold State.freeWithPort
  split
  · exact ⟨KeepsInterfaces.refl s, rfl, rfl⟩
  · rename_i l _
    obtain ⟨h1, h2⟩ := State.freeRecord_keeps s i l
    split
    · obtain ⟨-, -, h3, h4, -⟩ := PromotionKeeps.promote l.resource (s.freeRecord i l)
      exact ⟨h1.trans h4, h3.1.trans h2.1, h3.2.trans h2.2⟩
    · exact ⟨h1, h2⟩

/-- Freeing a port's records leaves the interfaces, the offer, the pins and the time, but for TOKEN_LIMIT (R8, R42). -/
theorem State.freeAllOf_keeps (p : Port) (s : State) :
    KeepsInterfaces s (s.freeAllOf p) ∧ SameTime s (s.freeAllOf p) := by
  unfold State.freeAllOf
  generalize s.ownedBy p = is
  induction is generalizing s with
  | nil => exact ⟨KeepsInterfaces.refl s, rfl, rfl⟩
  | cons i is ih =>
    obtain ⟨h1, h2⟩ := State.freeWithPort_keeps s i
    obtain ⟨h3, h4⟩ := ih (s.freeWithPort i)
    exact ⟨h1.trans h3, h4.1.trans h2.1, h4.2.trans h2.2⟩

/-- Closing a record leaves the interfaces and the time, but for TOKEN_LIMIT (R97). -/
theorem State.closeRecord_keeps (i : Index) (l : Lease) (reason : CloseReason) (s : State) :
    KeepsInterfaces s (s.closeRecord i l reason) ∧ SameTime s (s.closeRecord i l reason) := by
  have h : KeepsInterfaces s ((s.closeOnly i l reason).restate l.resource) ∧
      SameTime s ((s.closeOnly i l reason).restate l.resource) :=
    ⟨KeepsInterfaces.trans ⟨rfl, rfl, rfl, rfl, rfl, rfl⟩ (State.restate_keepsInterfaces _ _), by
      simp [SameTime, State.closeOnly]⟩
  unfold State.closeRecord
  split
  · obtain ⟨-, -, h3, h4, -⟩ := PromotionKeeps.promote l.resource ((s.closeOnly i l reason).restate l.resource)
    exact ⟨h.1.trans h4, h3.1.trans h.2.1, h3.2.trans h.2.2⟩
  · exact h

/-- Releasing a record leaves the interfaces and the time, but for TOKEN_LIMIT (R72). -/
theorem State.releaseRecord_keeps (i : Index) (l : Lease) (s : State) :
    KeepsInterfaces s (s.releaseRecord i l) ∧ SameTime s (s.releaseRecord i l) := by
  obtain ⟨h1, h2⟩ := State.freeRecord_keeps s i l
  unfold State.releaseRecord
  split
  · obtain ⟨-, -, h3, h4, -⟩ := PromotionKeeps.promote l.resource (s.freeRecord i l)
    exact ⟨h1.trans h4, h3.1.trans h2.1, h3.2.trans h2.2⟩
  · exact ⟨h1, h2⟩

end Sys2Proof.Machine
end

