-- ==== Sys2Proof/Laws/Checks.lean ====
section
/-!
SUPPORT. Checks that evaluate, each with the proof that it shows the property of the statements it stands for. The tests use
them on concrete states.
-/
namespace Sys2Proof.Machine

/-- A handle names a record whose lease satisfies `q`. -/
def namesLease (s : State) (q : Lease → Bool) (h : Handle) : Bool := s.handle h.index == h && (s.lease h.index).any q

/-- Whether the mode of a handle's record is `m`. -/
def hasModeCheck (s : State) (m : Mode) (h : Handle) : Bool := (s.lease h.index).any (fun l => l.mode == m)

/-- Whether an entry's state is the one its holders fix. -/
def stateCheck (s : State) (e : Entry) : Bool :=
  match e.state with
  | .vacant => e.holders.isEmpty
  | .exclusive => e.holders.length == 1 && e.holders.all (hasModeCheck s .exclusive)
  | .shared =>
    decide (1 ≤ e.holders.length) && decide (e.holders.length ≤ e.settings.maxSharers)
      && e.holders.all (hasModeCheck s .shared)

/-- Whether the pending-upgrade reference agrees with the flag of one holder. -/
def upgradeCheck (s : State) (e : Entry) (h : Handle) : Bool :=
  decide (e.upgrade = some h) == (s.lease h.index).any (fun l => l.phase.upgradePending)

/-- Whether a holder has a token within the counter, equal to it while the entry is EXCLUSIVE. -/
def tokenCheck (s : State) (e : Entry) (h : Handle) : Bool :=
  match s.tokenOf h with
  | some k => decide (k ≤ e.counter) && (e.state != .exclusive || k == e.counter)
  | none => false

/-- Whether an entry agrees with the records. -/
def entryCheck (s : State) (e : Entry) : Bool :=
  decide (1 ≤ e.settings.maxSharers) && decide e.holders.Nodup && decide e.waiters.Nodup
    && e.holders.all (namesLease s (fun l => l.resource == e.resource && l.phase.isHolder))
    && e.waiters.all (namesLease s (fun l => l.resource == e.resource && !l.phase.isHolder && l.phase.isLive))
    && stateCheck s e && e.upgrade.all (fun h => e.holders.contains h) && e.holders.all (upgradeCheck s e)
    && decide (e.holders.map s.tokenOf).Nodup && e.holders.all (tokenCheck s e)

theorem hasMode_of_check {s : State} {m : Mode} {h : Handle} (hc : hasModeCheck s m h = true) : HasMode s m h := by
  obtain ⟨l, h1, h2⟩ := any_lease.mp hc
  exact ⟨l, h1, by simpa using h2⟩

theorem stateOk_of_check {s : State} {e : Entry} (hc : stateCheck s e = true) : StateOk s e := by
  revert hc
  unfold stateCheck StateOk
  cases e.state <;> intro hc <;> dsimp only at hc ⊢
  · simpa using hc
  · simp only [Bool.and_eq_true, decide_eq_true_eq, List.all_eq_true] at hc
    exact ⟨hc.1.1, hc.1.2, fun h hh => hasMode_of_check (hc.2 h hh)⟩
  · simp only [Bool.and_eq_true, beq_iff_eq, List.all_eq_true] at hc
    obtain ⟨h, hh⟩ := List.length_eq_one_iff.mp hc.1
    exact ⟨h, hh, hasMode_of_check (hc.2 h (by simp [hh]))⟩

/-- The check shows that the entry agrees with the records. -/
theorem entryOk_of_check {s : State} {e : Entry} (hc : entryCheck s e = true) : EntryOk s e := by
  simp only [entryCheck, Bool.and_eq_true, decide_eq_true_eq, List.all_eq_true] at hc
  obtain ⟨⟨⟨⟨⟨⟨⟨⟨⟨h1, h2⟩, h3⟩, h4⟩, h5⟩, h6⟩, h7⟩, h8⟩, h9⟩, h10⟩ := hc
  refine ⟨h1, h2, h3, ?_, ?_, stateOk_of_check h6, ?_, ?_, ⟨h9, ?_, ?_⟩⟩
  · intro h hh
    have := h4 h hh
    simp only [namesLease, Bool.and_eq_true, beq_iff_eq, any_lease] at this
    obtain ⟨a, l, b, c, d⟩ := this
    exact ⟨a, l, b, c, d⟩
  · intro h hh
    have := h5 h hh
    simp only [namesLease, Bool.and_eq_true, beq_iff_eq, any_lease] at this
    obtain ⟨a, l, b, ⟨c, d⟩, f⟩ := this
    exact ⟨a, l, b, c, by simpa using d, f⟩
  · intro h hh
    rw [hh] at h7
    simpa using h7
  · intro h hh
    have := h8 h hh
    simp only [upgradeCheck, beq_iff_eq] at this
    constructor
    · intro hu
      rw [decide_eq_true hu] at this
      exact any_lease.mp this.symm
    · intro hl
      rw [any_lease.mpr hl] at this
      simpa using this
  · intro h hh
    have := h10 h hh
    unfold tokenCheck at this
    split at this
    · rename_i k hk
      exact ⟨k, hk, by simpa using (Bool.and_eq_true_iff.mp this).1⟩
    · simp at this
  · intro he h hh
    have := h10 h hh
    unfold tokenCheck at this
    split at this
    · rename_i k hk
      have h2 := (Bool.and_eq_true_iff.mp this).2
      rw [he] at h2
      rw [hk]
      simpa using h2
    · simp at this

/-- The lists and counts of a Store with every record FREE. -/
theorem storeLists_of_free {s : State} (hr : s.records = Vector.replicate 512 ⟨0, none⟩) (hp : s.freePool = allIndices)
    (hc : s.closedOrder = []) (hd : s.deadlines = []) : PoolOk s ∧ ClosedOk s ∧ DeadlinesOk s := by
  have hl : ∀ i, s.lease i = none := fun i => by simp [State.lease, hr]
  refine ⟨⟨hp ▸ allIndices_nodup, fun i => ?_⟩, ⟨by simp [hc], fun i => ?_⟩, by simp [hd], fun d i => ?_⟩
  · simp [hp, hl]
  · simp [hc, hl, leaseClosed]
  · simp [hd, hl]

/-! Requests. -/

/-- Whether the arbiter grants request `f` of interface `l`, of kind `k`, permitted and of a suitable length. -/
def servesCheck (s : State) (k : Kind) (l : Link) (f : Frame) : Bool :=
  decide (s.grantedRequest = some (l, f)) && f.kind == k.code && k.permitted l && k.bodyFits f.body && !s.mute l

theorem serves_of_check {s : State} {k : Kind} {l : Link} {f : Frame} (h : servesCheck s k l f = true) :
    s.serves k l f := by
  simp only [servesCheck, Bool.and_eq_true, decide_eq_true_eq, beq_iff_eq, Bool.not_eq_true'] at h
  obtain ⟨⟨⟨⟨h1, h2⟩, h3⟩, h4⟩, h5⟩ := h
  exact ⟨h1, h2, h3, h4, h5⟩

/-- The check of R45 reads clause by clause as `GrantableNow`. -/
theorem grantable_iff (e : Entry) (m : Mode) : e.grantable m = true ↔ GrantableNow e m := by
  cases m <;> simp [Entry.grantable, Entry.hasRoom, GrantableNow, and_assoc]

/-- The check of R43 reads clause by clause as `ClaimInRange`. -/
theorem claimInRange_iff (a : ClaimArgs) (m : Mode) (w : Wait) (hm : a.mode = some m) (hw : a.wait = some w) :
    a.inRange = true ↔ ClaimInRange a m w := by
  cases w <;>
    simp [ClaimArgs.inRange, ClaimInRange, hm, hw, Wait.inRange, termInRange, and_assoc]

/-- Whether a CLAIM passes checks 1 to 9. -/
def claimPassesCheck (s : State) (p : Port) (a : ClaimArgs) (m : Mode) (w : Wait) (e : Entry) : Bool :=
  s.clock.state != .stopped && decide (s.entry a.resource = some e) && (m == .exclusive || e.settings.sharing)
    && a.mode == some m && a.wait == some w && a.inRange && (s.liveOn p a.resource).isNone
    && s.ports[p].live != s.ports[p].quota
    && (if e.grantable m then e.counter != Config.tokenLimit
      else w != .no && decide (e.waiters.length < e.settings.maxWaiters))

theorem claimPasses_of_check {s : State} {p : Port} {a : ClaimArgs} {m : Mode} {w : Wait} {e : Entry}
    (h : claimPassesCheck s p a m w e = true) : ClaimPasses s p a m w e := by
  simp only [claimPassesCheck, Bool.and_eq_true, decide_eq_true_eq, beq_iff_eq, bne_iff_ne, ne_eq, Bool.or_eq_true,
    Option.isNone_iff_eq_none] at h
  obtain ⟨⟨⟨⟨⟨⟨⟨⟨h1, h2⟩, h3⟩, h4⟩, h5⟩, h6⟩, h7⟩, h8⟩, h9⟩ := h
  refine ⟨h1, h2, ?_, (claimInRange_iff a m w h4 h5).mp h6, State.liveOn_eq_none.mp h7, h8, ?_, ?_, ?_⟩
  · rintro rfl
    simpa using h3
  · intro hg
    rw [if_pos ((grantable_iff e m).mpr hg)] at h9
    simpa using h9
  · intro hg
    rw [if_neg (fun h => hg ((grantable_iff e m).mp h))] at h9
    exact (by simpa using h9 : w ≠ .no ∧ _).1
  · intro hg
    rw [if_neg (fun h => hg ((grantable_iff e m).mp h))] at h9
    exact (by simpa using h9 : w ≠ .no ∧ _).2

/-! Invariants. -/

/-- Whether a port's counts are those of its records. -/
def countsCheck (s : State) (p : Port) : Bool :=
  let count := fun (q : Lease → Bool) => (s.select (fun x => x.any (fun l => l.port == p && q l))).length
  s.ports[p].live == count (fun l => l.phase.isLive) && s.ports[p].closed == count (fun l => l.phase.isClosed)
    && s.ports[p].notices == count (fun l => l.flags.any) && decide (s.ports[p].live ≤ s.ports[p].quota)
    && decide (1 ≤ s.ports[p].quota) && decide (s.ports[p].quota ≤ 256) && decide (s.ports[p].lapsed ≤ Config.maxLapsed)

theorem countsOk_of_check {s : State} (h : ∀ p, countsCheck s p = true) : CountsOk s := by
  intro p
  have := h p
  simp only [countsCheck, Bool.and_eq_true, decide_eq_true_eq, beq_iff_eq, ← State.countOf_eq] at this
  obtain ⟨⟨⟨⟨⟨⟨h1, h2⟩, h3⟩, h4⟩, h5⟩, h6⟩, h7⟩ := this
  exact ⟨h1, h2, h3, h4, h5, h6, h7⟩

/-- Whether the guard lines and the directory agree. -/
def guardsCheck (s : State) : Bool :=
  decide (s.directory.map Entry.resource).Nodup
    && s.directory.all (fun e => e.settings.guardLine.all (fun n =>
      decide (s.lines[n].state.binding = some e.resource) && s.lines[n].state.isBegun == decide (e.state = .exclusive)))
    && (List.finRange 16).all (fun n => s.lines[n].state.binding.all (fun r =>
      s.directory.any (fun e => e.resource == r && decide (e.settings.guardLine = some n))))

theorem guardsOk_of_check {s : State} (h : guardsCheck s = true) : GuardsOk s := by
  simp only [guardsCheck, Bool.and_eq_true, decide_eq_true_eq, List.all_eq_true] at h
  obtain ⟨⟨h1, h2⟩, h3⟩ := h
  refine ⟨h1, fun e he n hn => ?_, fun n r hr => ?_⟩
  · have := h2 e he
    simp only [hn, Option.all_some, Bool.and_eq_true, decide_eq_true_eq, beq_iff_eq] at this
    exact ⟨this.1, by rw [this.2]; simp⟩
  · have := h3 n (List.mem_finRange n)
    simp only [hr, Option.all_some, List.any_eq_true, Bool.and_eq_true, beq_iff_eq, decide_eq_true_eq] at this
    obtain ⟨e, he, h4, h5⟩ := this
    exact ⟨e, he, h4, h5⟩

/-- Whether a port's session agrees with its line, its slot and its records. -/
def sessionCheck (s : State) (p : Port) : Bool :=
  let c := s.clients[p]
  (c.session != .inReset
      || (s.nReset && c.resetLine && c.exchange.slot.isNone && c.link.transaction.all (fun t => t.atEnd != .takeFrame)))
    && (c.session != .online || c.epoch != 0)
    && (c.session == .online
      || (c.exchange.slot.all (fun f => f.kind == Kind.openSession.code) && (c.resetItem || (s.ownedBy p).isEmpty)))

theorem sessionsOk_of_check {s : State} (h : ∀ p, sessionCheck s p = true) : SessionsOk s := by
  intro p
  have := h p
  simp only [sessionCheck, Bool.and_eq_true, Bool.or_eq_true, bne_iff_ne, ne_eq, beq_iff_eq, Option.isNone_iff_eq_none,
    List.isEmpty_iff] at this
  obtain ⟨⟨h1, h2⟩, h3⟩ := this
  refine ⟨fun hs => ?_, fun hs => ?_, fun hs => ?_⟩
  · rcases h1 with h1 | ⟨⟨⟨a, b⟩, c⟩, d⟩
    · exact absurd hs h1
    · refine ⟨a, b, c, fun t ht => ?_⟩
      rw [ht] at d
      simpa using d
  · rcases h2 with h2 | h2
    · exact absurd hs h2
    · exact h2
  · rcases h3 with h3 | ⟨a, b⟩
    · exact absurd h3 hs
    · refine ⟨fun f hf => ?_, fun hr i l hl hp => ?_⟩
      · rw [hf] at a
        simpa using a
      · rcases b with b | b
        · rw [hr] at b
          simp at b
        · have : i ∈ s.ownedBy p := (State.mem_ownedBy s p i).mpr ⟨l, hl, hp⟩
          rw [b] at this
          simp at this

/-- Whether the slot and the buffer of an exchange are those of its state. -/
def exchangeCheck (owed : Bool) (x : Exchange) : Bool :=
  match x.state with
  | .idle => x.slot.isNone && x.buffer.isNone
  | .pending => x.buffer.isNone && (x.slot.isSome || owed)
  | .ready => x.slot.isNone && x.buffer.isSome
  | .collected => x.slot.isNone && x.buffer.isSome

theorem exchangeOk_of_check {owed : Bool} {x : Exchange} (h : exchangeCheck owed x = true) :
    ExchangeOk (owed = true) x := by
  unfold exchangeCheck at h
  split at h <;> simp_all [ExchangeOk, Option.isSome_iff_ne_none]
  exact fun hs => h.2.resolve_left (fun hn => hn hs)

/-- Whether the exchange of an interface agrees with the table of R155 and with its link. -/
def linkCheck (s : State) (l : Link) : Bool :=
  exchangeCheck (decide (l = .management) && s.management.held.isSome) (s.exchange l)
    && (s.link l).transaction.all (fun t => t.atEnd != .takeFrame || (s.exchange l).state != .pending)

/-- Whether every exchange agrees with the table of R155, the links, the sessions and a hold. -/
def exchangesCheck (s : State) : Bool :=
  linkCheck s .management
    && (List.finRange 8).all (fun p => linkCheck s (.client p)
      && (s.clients[p].session != .inReset || decide (s.clients[p].exchange = ⟨.idle, none, none, none⟩)))
    && s.management.held.isSome == s.clock.holdRequested
    && (s.management.held.isNone
      || (s.management.exchange.state == .pending && s.management.exchange.slot.isNone && s.clock.state == .running))

theorem exchangesOk_of_check {s : State} (h : exchangesCheck s = true) : ExchangesOk s := by
  simp only [exchangesCheck, Bool.and_eq_true, List.all_eq_true, beq_iff_eq] at h
  obtain ⟨⟨⟨h1, h2⟩, h3⟩, h4⟩ := h
  have hl : ∀ l, linkCheck s l = true := fun l => by
    cases l with
    | client p => exact (h2 p (List.mem_finRange p)).1
    | management => exact h1
  have hx : ∀ l, _ := fun l => by
    have := hl l
    simp only [linkCheck, Bool.and_eq_true] at this
    exact this
  refine ⟨fun l => ?_, fun p hp => ?_, fun l t ht ha hpend => ?_, ?_, fun hh => ?_⟩
  · have := exchangeOk_of_check (hx l).1
    simpa [Option.isSome_iff_ne_none] using this
  · have := (h2 p (List.mem_finRange p)).2
    simp only [Bool.or_eq_true, bne_iff_ne, decide_eq_true_eq] at this
    exact this.resolve_left (fun hn => hn hp)
  · have := (hx l).2
    rw [ht] at this
    simp [ha, hpend] at this
  · rw [← h3, Option.isSome_iff_ne_none]
  · simpa [hh, Option.isNone_iff_eq_none, and_assoc] using h4

/-- Whether the lists of holders and waiters cover a live record. -/
def listedCheck (s : State) (i : Index) (l : Lease) : Bool :=
  s.directory.any (fun e => e.resource == l.resource
    && (if l.phase.isHolder then e.holders.contains (s.handle i) else e.waiters.contains (s.handle i)))

/-- Whether the Lease Store and the Resource Directory agree. -/
def tableCheck (s : State) : Bool :=
  let live := s.select (fun x => x.any (fun l => l.phase.isLive))
  decide (s.directory.map Entry.resource).Nodup && s.directory.all (entryCheck s)
    && live.all (fun i => (s.lease i).all (fun l =>
      listedCheck s i l && (!l.phase.upgradePending || l.mode == .shared)
        && s.directory.all (fun e => e.settings.sharing || l.resource != e.resource || l.mode == .exclusive)))
    && live.all (fun i => live.all (fun j => (s.lease i).all (fun l => (s.lease j).all (fun m =>
      l.port != m.port || l.resource != m.resource || i == j))))

theorem mem_live {s : State} {i : Index} {l : Lease} (h : s.lease i = some l) (hv : l.phase.isLive = true) :
    i ∈ s.select (fun x => x.any (fun l => l.phase.isLive)) := by
  simp [h, hv]

theorem tableOk_of_check {s : State} (h : tableCheck s = true) : TableOk s := by
  simp only [tableCheck, Bool.and_eq_true, decide_eq_true_eq, List.all_eq_true] at h
  obtain ⟨⟨⟨h1, h2⟩, h3⟩, h4⟩ := h
  refine ⟨h1, fun e he => entryOk_of_check (h2 e he), fun i l hl hv => ?_, fun i j l m hl hm hv hw hp hr => ?_,
    fun i l hl hu => ?_, fun e he hs i l hl hr hv => ?_⟩
  · have := h3 i (mem_live hl hv)
    rw [hl] at this
    simp only [Option.all_some, Bool.and_eq_true, listedCheck, List.any_eq_true, beq_iff_eq] at this
    obtain ⟨⟨⟨e, he, hr, hc⟩, -⟩, -⟩ := this
    refine ⟨e, he, hr, ?_⟩
    split <;> simp_all
  · have := h4 i (mem_live hl hv) j (mem_live hm hw)
    rw [hl, hm] at this
    simpa [hp, hr] using this
  · have hv : l.phase.isLive = true := by
      revert hu
      cases l.phase <;> simp [LeasePhase.upgradePending, LeasePhase.isLive, LeasePhase.isClosed]
    have := h3 i (mem_live hl hv)
    rw [hl] at this
    simp only [Option.all_some, Bool.and_eq_true] at this
    simpa [hu] using this.1.2
  · have := h3 i (mem_live hl hv)
    rw [hl] at this
    simp only [Option.all_some, Bool.and_eq_true, List.all_eq_true] at this
    simpa [hs, hr] using this.2 e he

/-- Whether the head of an entry's queue is one that its resource cannot grant. -/
def headCheck (s : State) (e : Entry) : Bool :=
  match e.upgrade with
  | some h => e.holders != [h]
  | none => e.waiters.head?.all (fun h => (s.lease h.index).all (fun l => !e.hasRoom l.mode))

theorem headBlocked_of_check {s : State} {e : Entry} (h : headCheck s e = true) : HeadBlocked s e := by
  revert h
  unfold headCheck HeadBlocked
  cases e.upgrade <;> intro h <;> dsimp only at h ⊢
  · intro k l hk hl
    simpa [hk, hl] using h
  · simpa using h

/-- Whether the fields of a lease are in their ranges and those of its state. -/
def leaseCheck (now : Nat) (l : Lease) : Bool :=
  decide (1 ≤ l.resource) && decide (l.resource ≤ 65535) && decide (1 ≤ l.term) && decide (l.term ≤ Config.maxTerm)
    && decide (l.renewals ≤ Config.maxRenewals)
    && (match l.phase with
      | .waiting _ => !l.flags.any && l.renewals == 0
      | .held _ _ _ => !l.flags.closed
      | .grace _ _ => !l.flags.closed
      | .closed g r => l.flags.closed && (if g = none then r != .lapsed else r != .waitExpired))
    && l.phase.deadline.all (fun d => decide (d ≤ Config.maxCount))
    && l.phase.grant.all (fun g => decide (g.token ≤ Config.tokenLimit) && decide (g.grantedAt ≤ now))

theorem leaseOk_of_check {now : Nat} {l : Lease} (h : leaseCheck now l = true) : LeaseOk now l := by
  simp only [leaseCheck, Bool.and_eq_true, decide_eq_true_eq] at h
  obtain ⟨⟨⟨⟨⟨⟨⟨h1, h2⟩, h3⟩, h4⟩, h5⟩, h6⟩, h7⟩, h8⟩ := h
  refine ⟨h1, h2, h3, h4, h5, ?_, fun d hd => ?_, fun g hg => ?_, fun d hd => ?_, fun g r hd => ?_⟩
  · unfold FlagsOk
    revert h6
    cases l.phase <;> simp +contextual
  · rw [hd] at h7
    simpa using h7
  · rw [hg] at h8
    simpa using h8
  · rw [hd] at h6
    simp at h6
    exact h6.2
  · rw [hd] at h6
    simp only [Bool.and_eq_true] at h6
    have := h6.2
    split at this <;> simp_all

theorem recordsOk_of_check {s : State}
    (h : s.records.toList.all (fun r => r.lease.all (leaseCheck s.clock.count)) = true) : RecordsOk s := by
  intro i l hl
  rw [List.all_eq_true] at h
  have hm : s.records[i] ∈ s.records.toList := by simp
  have := h _ hm
  unfold State.lease at hl
  rw [hl] at this
  exact leaseOk_of_check (by simpa using this)

end Sys2Proof.Machine
end

