-- ==== Sys2Proof/Laws/Layouts.lean ====
section
/-!
SUPPORT. The bodies of responses as the model writes them are those that the tables of Chapter 11 lay out, the bytes of a
transaction are those its spans shift out, and the settings that an AMEND carries are the fields of Table 11-7.
-/
namespace Sys2Proof.Machine

theorem leBytes_eq_map (k n : Nat) : leBytes k n = (List.range k).map (fun j => BitVec.ofNat 8 (n / 256 ^ j)) := by
  induction k generalizing n with
  | zero => rfl
  | succ k ih =>
    rw [leBytes, ih, List.range_succ_eq_map, List.map_cons, List.map_map]
    refine congr (congrArg _ ?_) (List.map_congr_left fun j _ => ?_)
    · simp [← BitVec.toNat_inj]
    · simp [Nat.div_div_eq_div_mul, Nat.pow_succ, Nat.mul_comm]

@[simp] theorem laidOut_nil : laidOut [] = [] := rfl

/-- A field of a layout is its value as a little-endian number, and the rest follows it. -/
@[simp] theorem laidOut_cons (k n : Nat) (fs : List (Nat × Nat)) : laidOut ((k, n) :: fs) = leBytes k n ++ laidOut fs := by
  simp [laidOut, leBytes_eq_map]

/-- A field of one byte. -/
@[simp] theorem leBytes_one (n : Nat) : leBytes 1 n = [byteOf n] := by
  simp [leBytes, byteOf, ← BitVec.toNat_inj]

@[simp] theorem bitsValue_eq (l : List Bool) : bitsValue l = bitsNat l := by
  induction l with
  | nil => rfl
  | cons b l ih => cases b <;> simp [bitsValue, bitsNat, ih]

@[simp] theorem byteOf_bitsNat (l : List Bool) : byteOf (bitsNat l) = bitsByte l := rfl

@[simp] theorem boolByte_eq (b : Bool) : boolByte b = bitsByte [b] := by cases b <;> rfl

@[simp] theorem byteOf_toNat (b : Byte) : byteOf b.toNat = b := by simp [byteOf]

@[simp] theorem Handle.value_eq (h : Handle) : h.value = h.encode := rfl

@[simp] theorem LeasePhase.byteOf_value (x : LeasePhase) : byteOf x.value = x.code := by cases x <;> rfl
@[simp] theorem Mode.byteOf_value (x : Mode) : byteOf x.value = x.code := by cases x <;> rfl
@[simp] theorem CloseReason.byteOf_value (x : CloseReason) : byteOf x.value = x.code := by cases x <;> rfl
@[simp] theorem EntryState.byteOf_value (x : EntryState) : byteOf x.value = x.code := by cases x <;> rfl
@[simp] theorem ClockState.byteOf_value (x : ClockState) : byteOf x.value = x.code := by cases x <;> rfl
@[simp] theorem DisciplineState.byteOf_value (x : DisciplineState) : byteOf x.value = x.code := by cases x <;> rfl
@[simp] theorem LineState.byteOf_value (x : LineState) : byteOf x.value = x.code := by cases x <;> rfl
@[simp] theorem Session.byteOf_value (x : Session) : byteOf x.value = x.code := by cases x <;> rfl
@[simp] theorem ExchangeState.byteOf_value (x : ExchangeState) : byteOf x.value = x.code := by cases x <;> rfl
@[simp] theorem NoticeFlags.byteOf_value (x : NoticeFlags) : byteOf x.value = x.code := by
  simp [NoticeFlags.value, NoticeFlags.code]

@[simp] theorem Lease.tokenValue_eq (l : Lease) : l.tokenValue = (l.phase.grant.map Grant.token).getD 0 := rfl

@[simp] theorem Lease.byteOf_reasonValue (l : Lease) :
    byteOf l.reasonValue = (l.phase.reason.map CloseReason.code).getD 0 := by
  unfold Lease.reasonValue
  cases l.phase.reason
  · rfl
  · exact CloseReason.byteOf_value _

@[simp] theorem Lease.clientTagValue_eq (l : Lease) : l.clientTagValue = (l.clientTag.map BitVec.toNat).getD 0 := rfl

@[simp] theorem trimValue_eq (t : Int) : trimValue t = (BitVec.ofInt 16 t).toNat := by
  simp [trimValue, BitVec.toNat_ofInt]

/-- Table 11-8. -/
theorem leaseStatusRecord_eq (h : Handle) (l : Lease) : leaseStatusRecord h l = leaseStatusLayout h l := by
  simp [leaseStatusRecord, leaseStatusLayout, Handle.bytes]

/-- Table 11-9. -/
theorem noticeEntryOf_eq (s : State) (i : Index) : noticeEntryOf s i = noticeLayout s i := by
  unfold noticeEntryOf noticeLayout
  cases s.lease i <;> simp [noticeEntry, Handle.bytes]

/-- Table 11-10, the entry block. -/
theorem Entry.block_eq (e : Entry) : e.block = entryLayout e := by
  simp [Entry.block, entryLayout]

/-- Table 11-10, the holder entry. -/
theorem holderEntry_eq (s : State) (h : Handle) : holderEntry s h = holderLayout s h := by
  unfold holderEntry holderLayout
  cases s.lease h.index <;> simp [Handle.bytes]
  rfl

theorem finRange_map_get {α : Type} {n : Nat} (v : Vector α n) : (List.finRange n).map (fun i => v[i]) = v.toList := by
  refine List.ext_getElem (by simp) (fun i h1 h2 => by simp)

/-- Section 11.5, the alert block. -/
theorem AlertSet.block_eq (a : AlertSet) : a.block = alertLayout a := by
  have h : a.portReset.toList.contains true = a.portResetSet := by
    unfold AlertSet.portResetSet
    rw [List.contains_eq_any_beq]
    simp
  have hl : (List.finRange 8).map (fun p => a.portReset[p]) = a.portReset.toList := finRange_map_get _
  simp only [AlertSet.block, alertLayout, AlertSet.flags, hl, h]
  simp

/-- Table 11-11, NOT_HELD. -/
theorem notHeldBody_eq (l : Lease) : notHeldBody l = notHeldLayout l := by simp [notHeldBody, notHeldLayout]

/-- Table 11-11, PORT-STATUS. -/
theorem portStatusBody_eq (s : State) (p : Port) : portStatusBody s p = portStatusLayout s p := by
  simp [portStatusBody, portStatusLayout]

/-- The records in a state are those whose phase has its code (R180). -/
theorem countRecords_eq (s : State) (state : Option Nat) (q : Option Lease → Bool)
    (h : ∀ x, q x = (x.map (fun l => l.phase.value) == state)) : s.countRecords q = s.recordsIn state := by
  rw [State.countRecords, State.select_length, allIndices_eq_finRange, State.recordsIn]
  exact List.countP_congr (fun i _ => by rw [h])

theorem phaseIs_eq {q : LeasePhase → Bool} {n : Nat} (h : ∀ ph, q ph = (ph.value == n)) (x : Option Lease) :
    phaseIs q x = (x.map (fun l => l.phase.value) == some n) := by
  cases x <;> simp [phaseIs, h]

theorem recordCounts_eq (s : State) :
    s.recordCounts =
      [s.recordsIn none, s.recordsIn (some 1), s.recordsIn (some 2), s.recordsIn (some 3), s.recordsIn (some 4)] := by
  unfold State.recordCounts
  rw [countRecords_eq s none _ (fun x => by cases x <;> rfl),
    countRecords_eq s (some 1) _ (phaseIs_eq fun ph => by cases ph <;> rfl),
    countRecords_eq s (some 2) _ (phaseIs_eq fun ph => by cases ph <;> rfl),
    countRecords_eq s (some 3) _ (phaseIs_eq fun ph => by cases ph <;> rfl),
    countRecords_eq s (some 4) _ (phaseIs_eq fun ph => by cases ph <;> rfl)]

theorem laidOut_bytes {α : Type} (f : α → Nat) (l : List α) :
    laidOut (l.map (fun x => (1, f x))) = l.map (fun x => byteOf (f x)) := by
  induction l with
  | nil => rfl
  | cons x l ih => simp [ih]

/-- Table 11-11, DEVICE-STATUS. -/
theorem deviceStatusBody_eq (s : State) : deviceStatusBody s = deviceStatusLayout s := by
  have hl : (List.finRange 16).map (fun n => s.lines[n].state.code) = s.lines.toList.map (fun g => g.state.code) := by
    rw [← finRange_map_get s.lines, List.map_map]
    rfl
  simp only [deviceStatusBody, deviceStatusLayout, recordCounts_eq, laidOut_bytes, LineState.byteOf_value, hl,
    ← AlertSet.block_eq]
  simp [trimBytes, State.now]

/-- What a transaction has shifted out, span by span. -/
@[simp] theorem shiftedBytes_eq (shifts : List Shift) (clocked : List Nat) :
    shiftedBytes shifts clocked = bytesOut shifts clocked := by
  induction shifts generalizing clocked with
  | nil => cases clocked <;> rfl
  | cons x xs ih =>
    cases clocked with
    | nil => rfl
    | cons n ns => simp [shiftedBytes, bytesOut, Shift.bytes, ih]

/-- A link whose transaction is cut is the one the statements speak of. -/
theorem linkCut_cut (fill : Byte) (x : LinkState) : LinkCut fill x (x.cut ⟨[], fill⟩) := by
  refine ⟨rfl, fun h => by simp [LinkState.cut, h], fun tr h => ⟨fun ha => ?_, fun ha => ?_⟩⟩ <;>
    simp [LinkState.cut, Transaction.cut, h, ha]

/-! The fields of AMEND (Table 11-7). -/

theorem field_two_le (b : List Byte) (i : Nat) : field b i 2 ≤ 65535 := by
  unfold field
  match h : (b.drop i).take 2 with
  | [] => simp [leNat]
  | [x] => simp only [leNat]; have := x.isLt; omega
  | [x, y] => simp only [leNat]; have := x.isLt; have := y.isLt; omega
  | x :: y :: z :: l => have := congrArg List.length h; simp at this; omega

theorem present_getD {α : Type} (c : Bool) (v d : α) : (present c v).getD d = if c then v else d := by cases c <;> rfl

/-- A range that is asked of a field only if it is present. -/
theorem present_all {α : Type} (c : Bool) (v : α) (q : α → Bool) :
    (present c v).all q = true ↔ (c = true → q v = true) := by
  cases c <;> simp [present]

/-- The sharing flag, if present, is 0 or 1. -/
theorem readBool_present (c : Bool) (b : Byte) :
    (present c (readBool b) != some none) = true ↔ (c = true → b = 0 ∨ b = 1) := by
  cases c <;> simp [present, readBool]
  by_cases h0 : b = 0 <;> by_cases h1 : b = 1 <;> simp_all

theorem readBool_present_getD (c : Bool) (b : Byte) (d : Bool) (h : c = true → b = 0 ∨ b = 1) :
    ((present c (readBool b)).getD none).getD d = if c then decide (b = 1) else d := by
  cases c
  · rfl
  · rcases h rfl with rfl | rfl <;> rfl

/-- The guard action, if present, removes the line or binds one of the 16. -/
theorem guardChange_present (c : Bool) (a : Byte) (n : Nat) :
    (present c (GuardChange.decode a n) != some none) = true ↔ (c = true → a = 1 ∨ a = 0 ∧ n ≤ 15) := by
  cases c <;> simp [present, GuardChange.decode, lineOf]
  by_cases h0 : a = 0
  · subst h0
    simp
    omega
  · by_cases h1 : a = 1 <;> simp_all

theorem guardChange_present_apply (c : Bool) (a : Byte) (n : Nat) (d : Option LineNo)
    (h : c = true → a = 1 ∨ a = 0 ∧ n ≤ 15) :
    (match present c (GuardChange.decode a n) with
      | some (some g) => g.apply
      | some none => d
      | none => d) = if c then if a = 1 then none else some (Fin.ofNat 16 n) else d := by
  cases c
  · rfl
  · rcases h rfl with rfl | ⟨rfl, hn⟩
    · rfl
    · have hn : n < 16 := by omega
      simp only [present, GuardChange.decode, lineOf, hn, GuardChange.apply, if_true, dite_true, Option.map_some]
      simp
      exact Fin.ext (by simp [Nat.mod_eq_of_lt hn])

end Sys2Proof.Machine
end

