-- ==== Sys2Proof/Laws/Time.lean ====
section
/-!
SUPPORT. What a tick end, a phase step and a REFCLK cycle do to each field.
-/
namespace Sys2Proof.Machine

/-- The lease table, the client interfaces, the pointer, the pins and the queue are as they were: what time never touches. -/
def TimeKeeps (s t : State) : Prop := SameTable s t ∧ SamePins s t ∧ t.clients = s.clients ∧ t.arbiter = s.arbiter

theorem TimeKeeps.refl (s : State) : TimeKeeps s s :=
  ⟨⟨⟨rfl, rfl, rfl, rfl⟩, rfl, rfl⟩, ⟨rfl, rfl, rfl⟩, rfl, rfl⟩

theorem TimeKeeps.trans {s u v : State} (h1 : TimeKeeps s u) (h2 : TimeKeeps u v) : TimeKeeps s v := by
  obtain ⟨⟨⟨a1, a2, a3, a4⟩, a5, a6⟩, ⟨a7, a8, a9⟩, a10, a11⟩ := h1
  obtain ⟨⟨⟨b1, b2, b3, b4⟩, b5, b6⟩, ⟨b7, b8, b9⟩, b10, b11⟩ := h2
  exact ⟨⟨⟨b1.trans a1, b2.trans a2, b3.trans a3, b4.trans a4⟩, b5.trans a5, b6.trans a6⟩,
    ⟨b7.trans a7, b8.trans a8, b9.trans a9⟩, b10.trans a10, b11.trans a11⟩

theorem State.syncHit_keeps (s : State) : TimeKeeps s s.syncHit := by
  unfold State.syncHit
  split <;> exact ⟨⟨⟨rfl, rfl, rfl, rfl⟩, rfl, rfl⟩, ⟨rfl, rfl, rfl⟩, rfl, rfl⟩

theorem State.syncMiss_keeps (s : State) : TimeKeeps s s.syncMiss := by
  unfold State.syncMiss
  split <;> exact ⟨⟨⟨rfl, rfl, rfl, rfl⟩, rfl, rfl⟩, ⟨rfl, rfl, rfl⟩, rfl, rfl⟩

/-- Closing a window changes the discipline and its alert only (R149). -/
theorem State.closeWindowBefore_keeps (k : Nat) (s : State) :
    TimeKeeps s (s.closeWindowBefore k) ∧ (s.closeWindowBefore k).clock = s.clock ∧
      (s.closeWindowBefore k).lines = s.lines ∧ (s.closeWindowBefore k).management.exchange = s.management.exchange ∧
      (s.closeWindowBefore k).management.held = s.management.held ∧
      (s.closeWindowBefore k).management.link = s.management.link := by
  unfold State.closeWindowBefore
  split
  · refine ⟨State.syncMiss_keeps s, by simp, by simp, ?_⟩
    unfold State.syncMiss
    split <;> exact ⟨rfl, rfl, rfl⟩
  · exact ⟨TimeKeeps.refl s, rfl, rfl, rfl, rfl, rfl⟩

/-- Where no window is open, none closes. -/
theorem State.closeWindowBefore_none {s : State} (k : Nat) (h : s.sync.window = none) : s.closeWindowBefore k = s := by
  simp [State.closeWindowBefore, State.windowEndsBefore, h]

theorem State.answerHold_keeps (s : State) :
    TimeKeeps s s.answerHold ∧ s.answerHold.clock = s.clock ∧ s.answerHold.sync = s.sync ∧ s.answerHold.lines = s.lines ∧
      s.answerHold.management.alerts = s.management.alerts ∧ s.answerHold.management.link = s.management.link := by
  unfold State.answerHold
  split
  · exact ⟨TimeKeeps.refl s, rfl, rfl, rfl, rfl, rfl⟩
  · exact ⟨⟨⟨⟨rfl, rfl, rfl, rfl⟩, rfl, rfl⟩, ⟨rfl, rfl, rfl⟩, rfl, rfl⟩, rfl, rfl, rfl, rfl, rfl⟩

/-- What every tick end does, in every state: the count, the trim position and the guard lines, and nothing of the table, the
clients and the pins (R136). -/
theorem State.tickEnd_effect (s : State) :
    TimeKeeps s s.tickEnd ∧ s.tickEnd.clock.count = s.clock.endTick.count ∧
      s.tickEnd.clock.trimPosition = s.clock.endTick.trimPosition ∧ s.tickEnd.clock.divisor = s.clock.divisor ∧
      s.tickEnd.clock.trimSet = s.clock.trimSet ∧ s.tickEnd.clock.phase.step = 0 ∧ s.tickEnd.clock.phase.cycle = 0 ∧
      s.tickEnd.lines = s.lines.map (GuardLine.compare s.clock.endTick.count) ∧
      s.tickEnd.management.link = s.management.link := by
  obtain ⟨h1, h2, h3, h4, h5, h6⟩ := State.closeWindowBefore_keeps Config.stepsPerTick s
  obtain ⟨⟨⟨a1, a2, a3, a4⟩, a5, a6⟩, ⟨a7, a8, a9⟩, a10, a11⟩ := h1
  unfold State.tickEnd
  simp only
  split
  · unfold State.completeHold
    obtain ⟨⟨⟨⟨b1, b2, b3, b4⟩, b5, b6⟩, ⟨b7, b8, b9⟩, b10, b11⟩, c1, c2, c3, c4, c5⟩ :=
      State.answerHold_keeps
        { s.closeWindowBefore Config.stepsPerTick with
          clock := (s.closeWindowBefore Config.stepsPerTick).clock.endTick.hold
          lines := (s.closeWindowBefore Config.stepsPerTick).lines.map
            (GuardLine.compare (s.closeWindowBefore Config.stepsPerTick).clock.endTick.count)
          sync := { (s.closeWindowBefore Config.stepsPerTick).sync with window := none } }
    refine ⟨⟨⟨⟨b1.trans a1, b2.trans a2, b3.trans a3, b4.trans a4⟩, b5.trans a5, b6.trans a6⟩,
      ⟨b7.trans a7, b8.trans a8, b9.trans a9⟩, b10.trans a10, b11.trans a11⟩, ?_, ?_, ?_, ?_, ?_, ?_, ?_, ?_⟩
    · rw [c1, h2]; rfl
    · rw [c1, h2]; rfl
    · rw [c1, h2]; rfl
    · rw [c1, h2]; rfl
    · rw [c1, h2]; rfl
    · rw [c1, h2]; rfl
    · rw [c3, h2, h3]
    · rw [c5, h6]
  · refine ⟨⟨⟨⟨a1, a2, a3, a4⟩, a5, a6⟩, ⟨a7, a8, a9⟩, a10, a11⟩, ?_, ?_, ?_, ?_, ?_, ?_, ?_, ?_⟩
    · simp [LeaseClock.beginTick, h2]
    · simp [LeaseClock.beginTick, h2]
    · simp [LeaseClock.beginTick, LeaseClock.endTick, h2]
    · simp [LeaseClock.beginTick, LeaseClock.endTick, h2]
    · simp [LeaseClock.beginTick]
    · simp [LeaseClock.beginTick]
    · simp [h2, h3]
    · simp [h6]

/-- REFCLK running on to a phase step changes the phase, and a window that it closes (R136, R149). -/
theorem State.enterStep_effect (k : Nat) (s : State) :
    TimeKeeps s (s.enterStep k) ∧ (s.enterStep k).clock = { s.clock with phase := ⟨Fin.ofNat 16 k, 0, false⟩ } ∧
      (s.enterStep k).lines = s.lines := by
  obtain ⟨h1, h2, h3, -⟩ := State.closeWindowBefore_keeps k s
  obtain ⟨⟨⟨a1, a2, a3, a4⟩, a5, a6⟩, ⟨a7, a8, a9⟩, a10, a11⟩ := h1
  refine ⟨⟨⟨⟨a1, a2, a3, a4⟩, a5, a6⟩, ⟨a7, a8, a9⟩, a10, a11⟩, ?_, ?_⟩
  · unfold State.enterStep
    simp only [h2]
  · unfold State.enterStep
    simp only [h3]

/-- A REFCLK cycle leaves the lease table, the clients, the pins and the queue (R136). -/
theorem State.refclk_keeps (s : State) : TimeKeeps s s.refclk := by
  unfold State.refclk
  split
  · split
    · exact ⟨⟨⟨rfl, rfl, rfl, rfl⟩, rfl, rfl⟩, ⟨rfl, rfl, rfl⟩, rfl, rfl⟩
    · split
      · exact (State.enterStep_effect _ s).1
      · exact (State.tickEnd_effect s).1
  · exact TimeKeeps.refl s

end Sys2Proof.Machine
end

