-- ==== Sys2Proof/WellFormed.lean ====
section
/-!
DEFINITION. Which commands can occur on the pins. The meanings do not depend on it: every command has a meaning.
-/
namespace Sys2Proof

/-- A command is well formed when its operands fit one another: an SPI link shifts one bit out for each bit in, so the
bytes clocked out during a SUBMIT are as many as its frame bytes (R152). The ports, lines, steps and links of the other
commands are in range by their types. -/
def Instr.wellFormed : Instr → Bool
  | .submit _ bytes clocked => clocked.sum == bytes.length
  | .collect _ clocked => !clocked.isEmpty
  | .ignoredTransaction _ _ => true
  | .openSession => true
  | .leave => true
  | .claim => true
  | .renew => true
  | .release => true
  | .upgrade => true
  | .downgrade => true
  | .leaseStatus => true
  | .fetchNotices => true
  | .acknowledge => true
  | .query => true
  | .validate => true
  | .declare => true
  | .amend => true
  | .retire => true
  | .revoke => true
  | .setQuota => true
  | .portReset => true
  | .clearAll => true
  | .clockSetup => true
  | .clockStart => true
  | .clockHold => true
  | .clockResume => true
  | .discipline => true
  | .deviceStatus => true
  | .portStatus => true
  | .ackAlerts => true
  | .unknownKind => true
  | .portRstRise _ => true
  | .portRstFall _ => true
  | .resetItem => true
  | .nresetFall => true
  | .nresetRise => true
  | .powerOn _ => true
  | .tickEnd => true
  | .expiryOffer => true
  | .expiryItem => true
  | .gapAssert _ => true
  | .holdTakesEffect => true
  | .syncEdge _ => true
  | .syncWindowMiss => true
  | .commandByte _ _ _ => true

end Sys2Proof
end

