-- ==== Sys2Proof/Tests/Slice0.lean ====
section
/-!
SUPPORT. Tests: one step each on a small state, with the results that the spec's worked sequences, tables and rules give;
and, for every statement of the Obligations file that has hypotheses, a concrete state and operands that meet them.
-/
namespace Sys2Proof.Tests

/- Each theorem is checked by the kernel in turn: many at once would need a stack each. -/
set_option Elab.async false

open Sys2Proof.Machine

/-! States. -/

/-- The part out of device reset, its clock RUNNING at a count. -/
def running (now : Nat) : State :=
  { State.reset with clock := { LeaseClock.reset with state := .running, count := now } }

/-- The state that a command leaves. -/
def after (c : Instr) (s : State) : State :=
  match exec c s with
  | .next t => t
  | .fault _ => s
  | .refused _ => s

/-- The request of a kind and body, with request id 7. -/
def request (k : Kind) (epoch : Byte) (body : List Byte) : Frame := ⟨k.code, epoch, 7, body, 0⟩

/-- A request waits in the slot of an interface; a client port is ONLINE with epoch 1. -/
def ask (l : Link) (k : Kind) (body : List Byte) (s : State) : State :=
  match l with
  | .client p =>
    (s.modifyClient p (fun c => { c with session := .online, epoch := 1 })).setExchange l
      ⟨.pending, some (request k 1 body), none, none⟩
  | .management => s.setExchange l ⟨.pending, some (request k 0 body), none, none⟩

/-- The status and body of the response in the buffer of an interface. -/
def reply (l : Link) (s : State) : Option (Status × List Byte) := (s.exchange l).buffer.map (fun r => (r.status, r.body))

/-- An entry is declared, and its guard line, if it has one, is `g`. -/
def declared (e : Entry) (g : GuardLine) (s : State) : State :=
  ({ s with directory := s.directory ++ [e] } : State).modifyLineOf e (fun _ => g)

/-- A record holds a lease under a tag. -/
def filed (i : Index) (tag : Tag) (l : Lease) (s : State) : State :=
  ({ s with records := s.records.set i ⟨tag, none⟩ } : State).putLease i (some l)

/-- A lease without renewals, client tag or notices. -/
def lease (p : Port) (resource : Nat) (m : Mode) (term : Nat) (phase : LeasePhase) : Lease :=
  ⟨p, resource, m, term, 0, none, NoticeFlags.none, phase⟩

/-- A line that is CLEAR for a resource and was last deasserted at a time. -/
def clearLine (resource last : Nat) : GuardLine := ⟨.clear resource, last⟩

/-- Section 3.9: the settings of resource 0x0120. -/
def settings120 : Settings := ⟨true, 2, 100, 5000, 200, 3, some 4, 0⟩

/-- Section 3.9 before step 1. -/
def contention : State :=
  declared ⟨0x120, .vacant, settings120, 7, [], none, []⟩ (clearLine 0x120 0)
    { running 20000 with freePool := 5 :: allIndices.erase 5 }

/-- Section 3.9 after step 1, at a time. -/
def shared120 (now : Nat) : State :=
  filed 5 0 (lease 0 0x120 .shared 2000 (.held ⟨8, 20000⟩ 22000 false))
    (declared ⟨0x120, .shared, settings120, 8, [⟨5, 0⟩], none, []⟩ (clearLine 0x120 0)
      { running now with freePool := 5 :: 6 :: 7 :: 8 :: ((((allIndices.erase 5).erase 6).erase 7).erase 8) })

/-- Section 3.9 after step 5, at a time. -/
def queued120 (now : Nat) : State :=
  filed 7 0 (lease 2 0x120 .shared 100 (.waiting none))
    (filed 6 0 (lease 1 0x120 .exclusive 5000 (.waiting (some 20510)))
      (filed 5 0 (lease 0 0x120 .shared 2000 (.held ⟨8, 20000⟩ 22000 false))
        (declared ⟨0x120, .shared, settings120, 8, [⟨5, 0⟩], none, [⟨6, 0⟩, ⟨7, 0⟩]⟩ (clearLine 0x120 0) (running now))))

/-- Section 4.7: resource 0x0450 with P0 and P3, the upgrade of P0 pending or not, and P3's record in a phase. -/
def upgrading (now : Nat) (pending : Bool) (p3 : LeasePhase) (flags : NoticeFlags) : State :=
  filed 44 1 (lease 5 0x450 .exclusive 200 (.waiting none))
    (filed 31 0 { lease 3 0x450 .shared 500 p3 with flags := flags }
      (filed 30 2 (lease 0 0x450 .shared 1000 (.held ⟨59, 40000⟩ (if now < 40700 then 41000 else 42650) pending))
        (declared
          ⟨0x450, .shared, ⟨true, 3, 100, 10000, 300, 4, some 9, 50⟩, 60, [⟨30, 2⟩, ⟨31, 0⟩],
            if pending then some ⟨30, 2⟩ else none, [⟨44, 1⟩]⟩ (clearLine 0x450 0) (running now))))

/-- Section 4.7: P3's record HELD. -/
def heldP3 : LeasePhase := .held ⟨60, 40000⟩ 40500 false

/-- Section 6.7: resource 0x0700 held by record 21 of P1, in a mode, with its token and line 5. -/
def guarded (now : Nat) (m : Mode) (token : Nat) (g : GuardLine) : State :=
  filed 21 0 (lease 1 0x700 m 500 (.held ⟨token, 10210⟩ 10710 false))
    (declared
      ⟨0x700, if m = .exclusive then .exclusive else .shared, ⟨true, 4, 1, 1000, 0, 0, some 5, 30⟩, token, [⟨21, 0⟩],
        none, []⟩ g (running now))

/-- Section 10.8: resource 0x0A00 before step 1. -/
def stalled : State :=
  filed 91 0 (lease 1 0xA00 .exclusive 2000 (.waiting none))
    (filed 90 5 (lease 4 0xA00 .exclusive 20000 (.held ⟨30, 100000⟩ 120000 false))
      (declared ⟨0xA00, .exclusive, ⟨false, 1, 1, 50000, 500, 4, some 7, 20⟩, 30, [⟨90, 5⟩], none, [⟨91, 0⟩]⟩
        ⟨.asserted 0xA00, 60000⟩ (running 100000)))

/-- Section 10.8: P4's record closed, before step 4. -/
def revoked : State :=
  filed 90 5
    { lease 4 0xA00 .exclusive 20000 (.closed (some ⟨30, 100000⟩) .revoked) with flags := ⟨false, false, false, true⟩ }
    (running 100100)

/-- Section 7.9: P3's records before step 5, and before step 3 if record 40 is still GRACE. -/
def notices (record40 : LeasePhase) (flags40 : NoticeFlags) : State :=
  filed 300 6
    { lease 3 0x102 .shared 1000 (.closed (some ⟨8, 60000⟩) .lapsed) with flags := ⟨false, false, true, true⟩ }
    (filed 41 0 { lease 3 0x101 .shared 1000 (.held ⟨23, 70050⟩ 71050 false) with flags := ⟨true, false, false, false⟩ }
      (filed 40 1 { lease 3 0x100 .exclusive 1000 record40 with flags := flags40 } (running 70060)))

/-- Section 2.8: resource 0x0310 with its holders and waiters. -/
def sharers (most counter : Nat) (holders waiters : List Handle) (third fourth : LeasePhase) : State :=
  filed 61 0 (lease 1 0x310 .shared 100 (.waiting none))
    (filed 60 0 (lease 6 0x310 .exclusive 100 (.waiting none))
      (filed 56 3 (lease 5 0x310 .shared 100 fourth)
        (filed 55 3 (lease 4 0x310 .shared 100 third)
          (filed 19 0 (lease 2 0x310 .shared 100 (.held ⟨41, 89000⟩ 99000 false))
            (filed 7 1 (lease 0 0x310 .shared 100 (.held ⟨40, 89000⟩ 99000 false))
              (declared ⟨0x310, .shared, ⟨true, most, 1, 10000, 0, 8, none, 0⟩, counter, holders, none, waiters⟩
                (clearLine 0 0) (running 90000)))))))

/-- Section 8.6: a discipline with its window, in a tick at a phase step. -/
def syncing (now : Nat) (step : Fin 16) (d : SyncDiscipline) : State :=
  let s := running now
  { s with clock := { s.clock with phase := ⟨step, 0, false⟩ }, sync := d }

/-! The link. -/

/-- R186: the CRC of the string 123456789. -/
theorem test_crc : crc16 [0x31, 0x32, 0x33, 0x34, 0x35, 0x36, 0x37, 0x38, 0x39] = 0x29B1#16 := by decide +kernel

/-- Section 11.3: bits 0 to 8 of a handle are the index, bits 9 to 15 the tag. -/
theorem test_handle : (⟨90, 5⟩ : Handle).bytes = [0x5A, 0x0A] ∧ Handle.decode 0xFFFF = ⟨511, 127⟩ := by decide +kernel

/-- Table 11-1: 0x5A selects SUBMIT and is answered ACCEPTED while the exchange is IDLE; during it filler is shifted out. -/
theorem test_commandByte :
    (after (.commandByte .management 0x5A false) (running 0)).link .management =
      ⟨some ⟨.submit, .takeFrame, [⟨[0x6E], 0xFF⟩], false⟩, [0xFF]⟩ := by
  decide +kernel

/-- A link on which a SUBMIT that will be taken is under way. -/
def submitting (l : Link) (s : State) : State :=
  s.setLink l ⟨some ⟨.submit, .takeFrame, [⟨[0x6E], 0xFF⟩], false⟩, [0xFF]⟩

/-- The bytes of a frame whose CRC is right. -/
def frameBytes (kind epoch id : Byte) (body : List Byte) : List Byte :=
  requestHeader kind epoch id body ++ leBytes 2 (crc16 (requestHeader kind epoch id body)).toNat

/-- R156: a whole OPEN frame on an OFFLINE port goes to the slot, and the part has shifted out ACCEPTED and filler. -/
theorem test_submit :
    let t := after (.submit (.client 2) (frameBytes 0x01 0 9 []) [6]) (submitting (.client 2) (running 0))
    (t.exchange (.client 2)).state = .pending ∧
      (t.link (.client 2)).shiftedOut = [0xFF, 0x6E, 0xFF, 0xFF, 0xFF, 0xFF, 0xFF] := by
  decide +kernel

/-- Section 9.9, step 7: a CLAIM on an OFFLINE port is answered OFFLINE. -/
theorem test_submit_offline :
    reply (.client 2)
      (after (.submit (.client 2) (frameBytes 0x03 3 72 (List.replicate 17 0)) [23]) (submitting (.client 2) (running 0)))
        = some (.offline, []) := by
  decide +kernel

/-- A link on which a COLLECT found nothing, under way. -/
def collecting (s : State) : State :=
  s.setLink .management ⟨some ⟨.collect, .nothing, [⟨[0x9C], 0xFF⟩], false⟩, [0xFF]⟩

/-- R154: NOT_READY and then filler are shifted out, and the exchange stays IDLE. -/
theorem test_collect :
    let t := after (.collect .management [3]) (collecting (running 0))
    (t.link .management).shiftedOut = [0xFF, 0x9C, 0xFF, 0xFF] ∧ (t.exchange .management).state = .idle := by
  decide +kernel

/-- R152: a transaction that ends before its first byte is complete has no effect. -/
theorem test_ignoredTransaction :
    ((after (.ignoredTransaction (.client 0) []) (running 0)).link (.client 0)).shiftedOut = [] := by
  decide +kernel

/-! Sessions. -/

/-- Section 9.9, step 8: OPEN on an OFFLINE port with epoch 3 is OPENED with epoch 4; the quota is 64 (R16). -/
theorem test_open :
    let s := (running 0).modifyClient 2 (fun c =>
      { c with epoch := 3, exchange := ⟨.pending, some (request .openSession 0 []), none, none⟩ })
    reply (.client 2) (after .openSession s) = some (.opened, [4, 64, 0]) ∧
      (after .openSession s).clients[2].session = .online := by
  decide +kernel

/-- Section 9.9, step 5: LEAVE frees record 88 with tag 1 and reports 1 live and 0 CLOSED records. -/
theorem test_leave :
    let s := filed 88 0 (lease 2 0x900 .exclusive 1000 (.held ⟨12, 8000⟩ 9000 false))
      (declared ⟨0x900, .exclusive, ⟨false, 1, 1, 1000, 0, 0, none, 0⟩, 12, [⟨88, 0⟩], none, []⟩ (clearLine 0 0)
        (running 8500))
    let t := after .leave (ask (.client 2) .leave [] s)
    reply (.client 2) t = some (.left, [1, 0, 0, 0]) ∧ t.handle 88 = ⟨88, 1⟩ ∧ t.clients[2].session = .offline ∧
      (t.entry 0x900).map Entry.state = some .vacant := by
  decide +kernel

/-! Claims. -/

/-- Section 3.9, step 1: handle (5, 0), token 8, term 2000 and deadline 22,000. -/
theorem test_claim_granted :
    let t := after .claim
      (ask (.client 0) .claim [0x20, 0x01, 0, 0xD0, 0x07, 0, 0, 0, 0, 0, 0, 0, 0, 0, 0, 0, 0] contention)
    reply (.client 0) t =
        some (.granted, [5, 0, 8, 0, 0, 0, 0xD0, 0x07, 0, 0, 0xF0, 0x55, 0, 0, 0, 0]) ∧
      t.deadlines = [⟨22000, 5⟩] ∧ (t.entry 0x120).map Entry.state = some .shared := by
  decide +kernel

/-- Section 3.9, step 2: the term is clamped to 5000, and the claim waits until 20,510 at position 1. -/
theorem test_claim_queued :
    let t := after .claim
      (ask (.client 1) .claim [0x20, 0x01, 1, 0x28, 0x23, 0, 0, 1, 0xF4, 0x01, 0, 0, 0, 0, 0, 0, 0] (shared120 20010))
    reply (.client 1) t = some (.queued, [6, 0, 0x88, 0x13, 0, 0, 1, 1, 0x1E, 0x50, 0, 0, 0, 0]) ∧
      t.deadlines = [⟨20510, 6⟩, ⟨22000, 5⟩] := by
  decide +kernel

/-- Section 4.7, step 5: RENEWED with deadline 42,650 and renewals 1; the upgrade stays pending. -/
theorem test_renew :
    let t := after .renew
      (ask (.client 0) .renew [0x1E, 0x04, 1, 0xD0, 0x07, 0, 0]
        (upgrading 40650 true (.grace ⟨60, 40000⟩ 40800) ⟨false, false, true, false⟩))
    reply (.client 0) t =
        some (.renewed, [0x1E, 0x04, 59, 0, 0, 0, 0xD0, 0x07, 0, 0, 0x9A, 0xA6, 0, 0, 0, 0, 1, 0]) ∧
      (t.lease 30).map Lease.phase = some (.held ⟨59, 40000⟩ 42650 true) := by
  decide +kernel

/-- Section 7.9, step 4: a late renewal without a term returns the record to HELD and the notice count falls to 2. -/
theorem test_renew_late :
    let t := after .renew
      (ask (.client 3) .renew [0x28, 0x02, 0, 0, 0, 0, 0] (notices (.grace ⟨15, 60000⟩ 70200) ⟨false, false, true, false⟩))
    (reply (.client 3) t).map Prod.fst = some .renewedLate ∧ t.ports[3].notices = 2 := by
  decide +kernel

/-- Section 3.9, step 6: P0's release promotes P1's claim with token 9 and deadline 25,100, and asserts line 4. -/
theorem test_release :
    let t := after .release (ask (.client 0) .release [5, 0] (queued120 20100))
    reply (.client 0) t = some (.released, [2]) ∧ t.lines[4] = ⟨.asserted 0x120, 0⟩ ∧
      t.lease 6 =
        some { lease 1 0x120 .exclusive 5000 (.held ⟨9, 20100⟩ 25100 false) with flags := ⟨true, false, false, false⟩ } := by
  decide +kernel

/-- Section 4.7, step 1: UPGRADE_PENDING with 2 holders. -/
theorem test_upgrade_waits :
    let t := after .upgrade (ask (.client 0) .upgrade [0x1E, 0x04, 1] (upgrading 40000 false heldP3 NoticeFlags.none))
    reply (.client 0) t = some (.upgradePending, [0x1E, 0x04, 2]) ∧
      (t.entry 0x450).bind Entry.upgrade = some ⟨30, 2⟩ := by
  decide +kernel

/-- Section 6.7, step 7: the only holder is upgraded with token 6, and line 5 waits until 10,230. -/
theorem test_upgrade_immediate :
    let t := after .upgrade (ask (.client 1) .upgrade [21, 0, 0] (guarded 10225 .shared 5 (clearLine 0x700 10200)))
    reply (.client 1) t =
        some (.upgraded, [21, 0, 6, 0, 0, 0, 0xF1, 0x27, 0, 0, 0, 0, 0xD6, 0x29, 0, 0, 0, 0]) ∧
      t.lines[5] = ⟨.gapWait 0x700 10230, 10200⟩ := by
  decide +kernel

/-- Section 6.7, step 6: the entry becomes SHARED, and line 5 becomes CLEAR with its time kept. -/
theorem test_downgrade :
    let t := after .downgrade
      (ask (.client 1) .downgrade [21, 0] (guarded 10220 .exclusive 5 ⟨.gapWait 0x700 10230, 10200⟩))
    reply (.client 1) t = some (.downgraded, [21, 0, 5, 0, 0, 0, 2, 0xD6, 0x29, 0, 0, 0, 0]) ∧
      t.lines[5] = clearLine 0x700 10200 ∧ (t.entry 0x700).map Entry.state = some .shared := by
  decide +kernel

/-! Reports and notices. -/

/-- Table 11-8: the lease-status record of record 90 of section 10.8. -/
theorem test_leaseStatus :
    reply .management (after .leaseStatus (ask .management .leaseStatus [0x5A, 0x0A] stalled)) =
      some (.ok, [0x5A, 0x0A, 2, 4, 0x00, 0x0A, 1, 0x20, 0x4E, 0, 0, 3, 30, 0, 0, 0, 0xA0, 0x86, 1, 0, 0, 0,
        0xC0, 0xD4, 1, 0, 0, 0, 0, 0, 0, 0, 0, 0, 0, 0, 0]) := by
  decide +kernel

/-- Section 7.9, step 3: three entries, no next cursor. -/
theorem test_fetchNotices :
    reply (.client 3)
        (after .fetchNotices (ask (.client 3) .fetchNotices [0, 0]
          (notices (.grace ⟨15, 60000⟩ 70200) ⟨false, false, true, false⟩))) =
      some (.ok, [3, 0, 0, 0, 0] ++
        [0x28, 0x02, 4, 3, 0x00, 0x01, 1, 3, 15, 0, 0, 0, 0x38, 0x12, 1, 0, 0, 0, 0, 0, 0, 0, 0] ++
        [0x29, 0x00, 1, 2, 0x01, 0x01, 0, 3, 23, 0, 0, 0, 0x8A, 0x15, 1, 0, 0, 0, 0, 0, 0, 0, 0] ++
        [0x2C, 0x0D, 12, 4, 0x02, 0x01, 0, 5, 8, 0, 0, 0, 0, 0, 0, 0, 0, 0, 1, 0, 0, 0, 0]) := by
  decide +kernel

/-- Section 7.9, step 5: NOT_SET, DONE and DONE; record 300 is freed with tag 7 and the counts fall to 0. -/
theorem test_acknowledge :
    let t := after .acknowledge
      (ask (.client 3) .acknowledge [3, 0x28, 0x02, 4, 0x29, 0x00, 1, 0x2C, 0x0D, 12]
        (notices (.held ⟨15, 60000⟩ 71080 false) NoticeFlags.none))
    reply (.client 3) t = some (.ok, [3, 2, 0, 1, 0, 0, 1, 1, 0, 0, 12, 0, 0]) ∧ t.handle 300 = ⟨300, 7⟩ ∧
      t.ports[3].closed = 0 ∧ t.ports[3].notices = 0 := by
  decide +kernel

/-- Section 2.8, step 5: SHARED, max sharers 5, counter 43, four holders, 2 waiting and no pending upgrade. -/
theorem test_query :
    (reply .management (after .query (ask .management .query [0x10, 0x03]
      (sharers 5 43 [⟨7, 1⟩, ⟨19, 0⟩, ⟨55, 3⟩, ⟨56, 3⟩] [⟨60, 0⟩, ⟨61, 0⟩] (.held ⟨42, 90000⟩ 90100 false)
        (.held ⟨43, 90000⟩ 90100 false))))) =
      some (.ok, [0x10, 0x03, 2, 1, 5, 1, 0, 0, 0, 0x10, 0x27, 0, 0, 0, 0, 8, 0, 0, 0, 43, 0, 0, 0, 4, 2,
        0, 0, 40, 0, 0, 0, 0, 7, 2, 2, 0, 41, 0, 0, 0, 0, 19, 0, 4, 0, 42, 0, 0, 0, 0, 0x37, 6,
        5, 0, 43, 0, 0, 0, 0, 0x38, 6]) := by
  decide +kernel

/-- Section 6.7, the table after step 8: the answers to tokens 5, 6 and 7. -/
theorem test_validate :
    let ask6 := fun (token : Byte) =>
      reply (.client 0) (after .validate (ask (.client 0) .validate [0x00, 0x07, token, 0, 0, 0]
        (guarded 10230 .exclusive 6 ⟨.asserted 0x700, 10200⟩)))
    ask6 5 = some (.superseded, [6, 0, 0, 0]) ∧ ask6 6 = some (.currentExclusive, [0, 1, 6, 0, 0, 0]) ∧
      ask6 7 = some (.unissued, [6, 0, 0, 0]) := by
  decide +kernel

/-! The directory. -/

/-- R30: DECLARE of 0x0700 with guard line 5 and token base 3. -/
theorem test_declare :
    let t := after .declare (ask .management .declare
      [0x00, 0x07, 7, 4, 1, 0, 0, 0, 0xE8, 3, 0, 0, 0, 0, 0, 5, 30, 0, 3, 0, 0, 0] (running 0))
    reply .management t = some (.ok, [0x00, 0x07, 3, 0, 0, 0]) ∧ t.lines[5] = clearLine 0x700 0 ∧
      t.entry 0x700 = some ⟨0x700, .vacant, ⟨true, 4, 1, 1000, 0, 0, some 5, 30⟩, 3, [], none, []⟩ := by
  decide +kernel

/-- Section 2.8, step 1: max sharers 3 grants P4's claim with token 42, and promotion stops. -/
theorem test_amend :
    let t := after .amend (ask .management .amend [0x10, 0x03, 2, 0, 3, 0, 0, 0, 0, 0, 0, 0, 0, 0, 0, 0, 0, 0, 0, 0]
      (sharers 2 41 [⟨7, 1⟩, ⟨19, 0⟩] [⟨55, 3⟩, ⟨56, 3⟩, ⟨60, 0⟩, ⟨61, 0⟩] (.waiting none) (.waiting none)))
    (t.entry 0x310).map (fun e => (e.counter, e.holders, e.waiters)) =
      some (42, [⟨7, 1⟩, ⟨19, 0⟩, ⟨55, 3⟩], [⟨56, 3⟩, ⟨60, 0⟩, ⟨61, 0⟩]) := by
  decide +kernel

/-- R36: RETIRE closes the holder and then the waiter, reports both and the counter, and unbinds line 7. -/
theorem test_retire :
    let t := after .retire (ask .management .retire [0x00, 0x0A] stalled)
    reply .management t = some (.ok, [0x00, 0x0A, 1, 1, 30, 0, 0, 0]) ∧ t.closedOrder = [90, 91] ∧ t.directory = [] ∧
      t.lines[7] = ⟨.unbound, 100000⟩ := by
  decide +kernel

/-! Administration. -/

/-- Section 10.8, step 1: OK with P4, HELD, EXCLUSIVE and token 30; record 91 takes token 31 and line 7 waits. -/
theorem test_revoke :
    let t := after .revoke (ask .management .revoke [0x5A, 0x0A] stalled)
    reply .management t = some (.ok, [4, 2, 1, 1, 30, 0, 0, 0]) ∧ t.lines[7] = ⟨.gapWait 0xA00 100020, 100000⟩ ∧
      (t.lease 91).map Lease.phase = some (.held ⟨31, 100000⟩ 102000 false) ∧ t.ports[4] = ⟨64, 0, 1, 1, 0⟩ := by
  decide +kernel

/-- R172: a quota below the live count is refused IN_USE with that count. -/
theorem test_setQuota :
    reply .management (after .setQuota (ask .management .setQuota [3, 1, 0]
      (notices (.held ⟨15, 60000⟩ 71080 false) NoticeFlags.none))) = some (.inUse, [2, 0]) := by
  decide +kernel

/-- Section 10.8, step 4: 0 live and 1 CLOSED record, no request and a response discarded; record 90 takes tag 6. -/
theorem test_portReset :
    let s := revoked.modifyClient 4 (fun c =>
      { c with
        session := .online
        epoch := 6
        exchange := ⟨.ready, none, some ⟨.closedAlready, 4, 6, 7, 100050, 0, 1, [3]⟩, none⟩ })
    let t := after .portReset (ask .management .portReset [4] s)
    reply .management t = some (.ok, [4, 0, 0, 1, 0, 2]) ∧ t.handle 90 = ⟨90, 6⟩ ∧
      t.clients[4].session = .offline ∧ t.management.alerts.portReset[4] = true := by
  decide +kernel

/-- R178: CLEAR_ALL reports 2 live and 0 CLOSED records and 1 entry, and restarts the gap of line 7. -/
theorem test_clearAll :
    let t := after .clearAll (ask .management .clearAll [] stalled)
    reply .management t = some (.ok, [2, 0, 0, 0, 1, 0]) ∧ t.lines[7] = clearLine 0xA00 100000 ∧ t.handle 0 = ⟨0, 1⟩ := by
  decide +kernel

/-- Table 11-11: DEVICE_STATUS of section 10.8 before step 1. -/
theorem test_deviceStatus :
    reply .management (after .deviceStatus (ask .management .deviceStatus [] stalled)) =
      some (.ok, [1, 0xA0, 0x86, 1, 0, 0, 0, 0, 6, 0, 0, 0, 0, 0, 0, 0xFE, 1, 1, 0, 1, 0, 0, 0, 0, 0, 0xFE, 1, 1, 0, 1, 0,
        0, 0, 0, 0, 0, 0, 0, 3, 0, 0, 0, 0, 0, 0, 0, 0, 0, 0, 0, 0]) := by
  decide +kernel

/-- Section 10.8, step 5: OFFLINE, epoch 6, IDLE, quota 64 and every count 0. -/
theorem test_portStatus :
    reply .management (after .portStatus (ask .management .portStatus [4]
      ((running 0).modifyClient 4 (fun c => { c with epoch := 6 })))) =
      some (.ok, [4, 0, 6, 0, 64, 0, 0, 0, 0, 0, 0, 0, 0]) := by
  decide +kernel

/-- R131: the alert set before clearing is answered, and the alert named is cleared. -/
theorem test_ackAlerts :
    let t := after .ackAlerts (ask .management .ackAlerts [4] ((running 0).setAlerts
      ⟨false, some 0x120, true, false, Vector.replicate 8 false⟩))
    reply .management t = some (.ok, [6, 0x20, 0x01, 0]) ∧
      t.management.alerts = ⟨false, some 0x120, false, false, Vector.replicate 8 false⟩ := by
  decide +kernel

/-- R167: code 0x3F names no kind. -/
theorem test_unknownKind :
    let s := (running 0).setExchange .management ⟨.pending, some ⟨0x3F, 0, 7, [], 0⟩, none, none⟩
    reply .management (after .unknownKind s) = some (.unknownKind, []) := by
  decide +kernel

/-! The clock. -/

/-- R140: divisor 1 with trim -1 is accepted in STOPPED; the trim is answered in two's complement. -/
theorem test_clockSetup :
    reply .management (after .clockSetup (ask .management .clockSetup [1, 0, 0xFF, 0xFF] State.reset)) =
      some (.ok, [1, 0, 0xFF, 0xFF, 0, 0, 0]) := by
  decide +kernel

/-- R141: CLOCK_START makes a STOPPED clock RUNNING. -/
theorem test_clockStart :
    let t := after .clockStart (ask .management .clockStart [] State.reset)
    reply .management t = some (.ok, []) ∧ t.clock.state = .running ∧ t.clock.count = 0 := by
  decide +kernel

/-- R142: CLOCK_HOLD writes no response yet. -/
theorem test_clockHold :
    let t := after .clockHold (ask .management .clockHold [] (running 5))
    reply .management t = none ∧ t.clock.holdRequested = true ∧ (t.exchange .management).state = .pending := by
  decide +kernel

/-- R144: CLOCK_RESUME of a RUNNING clock is answered WRONG_STATE with the state. -/
theorem test_clockResume :
    reply .management (after .clockResume (ask .management .clockResume [] (running 5))) = some (.wrongState, [1]) := by
  decide +kernel

/-- R150: DISCIPLINE ON makes the discipline ACQUIRING with no origin. -/
theorem test_discipline :
    let t := after .discipline (ask .management .discipline [1] (syncing 5 0 ⟨.tracking, some 3, 1, 2, none⟩))
    reply .management t = some (.ok, [1]) ∧ t.sync = ⟨.acquiring, none, 0, 0, none⟩ := by
  decide +kernel

/-- Section 6.7, step 3: at count 10,030 the waiting line is asserted. -/
theorem test_tickEnd :
    let t := after .tickEnd ((running 10029).modifyLine 5 (fun _ => ⟨.gapWait 0x700 10030, 10000⟩))
    t.clock.count = 10030 ∧ t.lines[5] = ⟨.asserted 0x700, 10000⟩ := by
  decide +kernel

/-- R137: at magnitude 3 the corrected positions are 341, 682 and 1023, where 3(k+1)/1024 passes 1, 2 and 3. -/
theorem test_trim : (List.range 1024).filter (trimCorrects 3) = [341, 682, 1023] := by decide +kernel

/-- Section 8.6, last paragraph: event 12 completes a hold at 13,237, counts the hit and posts SYNC_ACQUIRED. -/
theorem test_syncEdge_holds :
    let s := syncing 13236 12 ⟨.holdover, some 5237, 1, 0, some ⟨13237, 5⟩⟩
    let t := after (.syncEdge 12)
      { s with
        clock := { s.clock with holdRequested := true }
        management := { s.management with held := some (request .clockHold 0 []) } }
    reply .management t = some (.heldAt, [0xB5, 0x33, 0, 0, 0, 0]) ∧ t.clock.state = .held ∧
      t.management.alerts.syncAcquired = true := by
  decide +kernel

/-- R143: a hold completes at the tick end that raises the count. -/
theorem test_holdTakesEffect :
    let s := running 41
    let t := after .holdTakesEffect
      { s with
        clock := { s.clock with holdRequested := true }
        management := { s.management with held := some (request .clockHold 0 []) } }
    reply .management t = some (.heldAt, [42, 0, 0, 0, 0, 0]) ∧ t.clock.state = .held := by
  decide +kernel

/-- Section 8.6, event 4: a late hit restarts tick 7,238 and makes the discipline TRACKING. -/
theorem test_syncEdge_late :
    let t := after (.syncEdge 1) (syncing 7237 0 ⟨.acquiring, some 5237, 1, 0, some ⟨7237, 5⟩⟩)
    t.clock.count = 7237 ∧ t.clock.phase.step = 0 ∧ t.sync = ⟨.tracking, some 5237, 0, 0, none⟩ := by
  decide +kernel

/-- Section 8.6, event 9: the third miss posts SYNC_LOST, and the discipline is in HOLDOVER with both counts 0. -/
theorem test_syncWindowMiss :
    let t := after .syncWindowMiss (syncing 11237 0 ⟨.tracking, some 5237, 0, 2, some ⟨11237, 2⟩⟩)
    t.sync = ⟨.holdover, some 5237, 0, 0, none⟩ ∧ t.management.alerts.syncLost = true ∧ t.clock.phase.step = 3 := by
  decide +kernel

/-! The Expiry Unit and the guard lines. -/

/-- Section 5.9, event 1: the head of four equal deadlines, index 3, is offered at 50,000. -/
theorem test_expiryOffer :
    (after .expiryOffer { running 50000 with deadlines := [⟨50000, 3⟩, ⟨50000, 10⟩, ⟨50000, 15⟩, ⟨50000, 22⟩] }).offer
      = some 3 := by
  decide +kernel

/-- Section 4.7, step 4: record 31 enters GRACE until 40,800 with WARNING. -/
theorem test_expiryItem_grace :
    let t := after .expiryItem { upgrading 40500 true heldP3 NoticeFlags.none with offer := some 31 }
    (t.lease 31).map (fun l => (l.phase, l.flags)) =
        some (.grace ⟨60, 40000⟩ 40800, ⟨false, false, true, false⟩) ∧ t.offer = none := by
  decide +kernel

/-- Section 4.7, step 6: record 31 closes LAPSED, and record 30's upgrade completes with token 61. -/
theorem test_expiryItem_close :
    let t := after .expiryItem
      { upgrading 40800 true (.grace ⟨60, 40000⟩ 40800) ⟨false, false, true, false⟩ with offer := some 31 }
    t.closedOrder = [31] ∧ t.lines[9] = ⟨.asserted 0x450, 0⟩ ∧
      (t.lease 30).map (fun l => (l.mode, l.phase)) = some (.exclusive, .held ⟨61, 40800⟩ 42650 false) := by
  decide +kernel

/-- Section 6.7, step 8: line 5 is asserted at its assert at of 10,230. -/
theorem test_gapAssert :
    (after (.gapAssert 5) ((running 10230).modifyLine 5 (fun _ => ⟨.gapWait 0x700 10230, 10200⟩))).lines[5] =
      ⟨.asserted 0x700, 10200⟩ := by
  decide +kernel

/-! Resets. -/

/-- R163: a rising reset line discards the response and places a reset item. -/
theorem test_portRstRise :
    let t := after (.portRstRise 4) (ask (.client 4) .claim [] revoked)
    t.clients[4].session = .inReset ∧ t.clients[4].resetItem = true ∧ (t.exchange (.client 4)).slot = none := by
  decide +kernel

/-- R164: when the line falls, the port is OFFLINE. -/
theorem test_portRstFall :
    (after (.portRstFall 4) (revoked.modifyClient 4 (fun c => { c with session := .inReset, resetLine := true }))).clients[4]
      = ClientInterface.reset := by
  decide +kernel

/-- Table 11-1: a SUBMIT of four frame bytes, in which the reset line rises after the first and falls after the third, shifts
out ACCEPTED, OFFLINE-IGNORED twice and filler, and its frame is discarded. -/
theorem test_portRstFall_link :
    let t := after (.submit (.client 0) [1, 2, 3, 4] [1, 2, 1])
      (after (.portRstFall 0) (after (.portRstRise 0) (submitting (.client 0) (running 5))))
    (t.link (.client 0)).shiftedOut = [0xFF, 0x6E, 0xF0, 0xF0, 0xFF] ∧ (t.exchange (.client 0)).state = .idle := by
  decide +kernel

/-- R164: the reset item of P4 frees record 90 with tag 6 and posts P4 in PORT_RESET. -/
theorem test_resetItem :
    let t := after .resetItem (revoked.modifyClient 4 (fun c => { c with resetItem := true }))
    t.handle 90 = ⟨90, 6⟩ ∧ t.ports[4] = ⟨64, 0, 0, 0, 0⟩ ∧ t.management.alerts.portReset[4] = true := by
  decide +kernel

/-- R182: a fall of nRESET drops line 7 and resets the clock. -/
theorem test_nresetFall :
    let t := after .nresetFall stalled
    t.guardOutput 7 = false ∧ t.clock = LeaseClock.reset ∧ t.nReset = false := by
  decide +kernel

/-- R183: a port whose reset line is high when device reset ends is IN_RESET. -/
theorem test_nresetRise :
    let s := State.reset.modifyClient 1 (fun c => { c with resetLine := true })
    let t := after .nresetRise { s with nReset := false }
    t.clients[1].session = .inReset ∧ t.clients[0].session = .offline ∧ t.nReset = true := by
  decide +kernel

/-- R182: power-on with nRESET low leaves the part in device reset. -/
theorem test_powerOn : (after (.powerOn false) stalled).nReset = false ∧ (after (.powerOn true) stalled).directory = [] := by
  decide +kernel

/-! Well-formedness. -/

/-- A SUBMIT that clocks out another number of bytes than it takes in does not occur (R152). -/
theorem test_wellFormed_submit : (Instr.submit .management [1, 2] [1]).wellFormed = false := by decide

/-- A COLLECT with no span does not occur (log entry 12). -/
theorem test_wellFormed_collect : (Instr.collect .management []).wellFormed = false := by decide

/-- Log entry 19: no word spells a command. -/
theorem test_decode : decodeTableWord 8 0x5A = none := by decide

/-! States that meet the hypotheses of the statements. -/

/-- Witness of StepRunsFrontCommand: a state with a command in front, and one with an empty queue. -/
theorem witness_StepRunsFrontCommand :
    ({ running 5 with pending := [.tickEnd, .claim] } : State).pending = .tickEnd :: [.claim] ∧ (running 5).pending = [] :=
  ⟨rfl, rfl⟩

/-- The last REFCLK cycle of a tick, or the first of its last step. -/
def lastStep (cycle : Nat) : State :=
  let s := running 5
  { s with clock := { s.clock with phase := ⟨15, cycle, false⟩ } }

/-- A tick end in front of the queue. -/
def tickQueued : State := { running 5 with pending := [.tickEnd] }

theorem exec_tickEnd (s : State) : exec .tickEnd s = .next (after .tickEnd s) := rfl

theorem tickQueued_pending : tickQueued.pending = [.tickEnd] := rfl

theorem tickQueued_step : step tickQueued = .next (after .tickEnd { tickQueued with pending := [] }) := by
  simp only [step, tickQueued_pending]
  exact exec_tickEnd _

/-- Witness of CountOnlyRises, steps: a REFCLK cycle that ends a tick and one that does not, and a tick end in the queue. -/
theorem witness_CountOnlyRises_step :
    (step (lastStep 1535) = .next (lastStep 1535).refclk ∧ (lastStep 1535).refclk.clock.count = 6) ∧
      (step (lastStep 0) = .next (lastStep 0).refclk ∧ (lastStep 0).refclk.clock.count = 5) ∧
      step tickQueued = .next (after .tickEnd { tickQueued with pending := [] }) ∧
      (after .tickEnd { tickQueued with pending := [] }).clock.count = 6 :=
  ⟨⟨rfl, by decide +kernel⟩, ⟨rfl, by decide +kernel⟩, tickQueued_step, by decide +kernel⟩

/-- Witness of CountOnlyRises: commands that leave the count (at its largest, too), raise it and return it to 0. -/
theorem witness_CountOnlyRises :
    exec .claim (running 5) = .next (after .claim (running 5)) ∧ (after .claim (running 5)).clock.count = 5 ∧
      exec .tickEnd (running 281474976710655) = .next (after .tickEnd (running 281474976710655)) ∧
      (after .tickEnd (running 281474976710655)).clock.count = 281474976710655 ∧
      exec .tickEnd (running 281474976710654) = .next (after .tickEnd (running 281474976710654)) ∧
      (after .tickEnd (running 281474976710654)).clock.count = 281474976710655 ∧
      exec .nresetFall (running 5) = .next (after .nresetFall (running 5)) ∧
      (after .nresetFall (running 5)).clock.count = 0 :=
  ⟨rfl, by decide +kernel, rfl, by decide +kernel, rfl, by decide +kernel, rfl, by decide +kernel⟩

/-- A discipline in a state with its counts, its origin 5,237 and the window of the mark 6,237. -/
def sixthMark (state : DisciplineState) (hits misses : Nat) : SyncDiscipline :=
  ⟨state, some 5237, hits, misses, some ⟨6237, if state = .tracking then 2 else 5⟩⟩

/-- Disciplines of every state that has marks, at counts of hits and misses where the next miss or hit changes the state. -/
def disciplines : List SyncDiscipline :=
  [sixthMark .acquiring 1 0, sixthMark .tracking 0 1, sixthMark .tracking 0 2, sixthMark .holdover 1 6,
    sixthMark .holdover 0 7]

/-- Witness of TickEndAdvancesTime, at the largest count too; with a window at hand, open about the mark just passed, and
none, one and two ticks before a mark. -/
theorem witness_TickEndAdvancesTime :
    (∀ s ∈ [running 5, running 281474976710655],
      s.nReset = true ∧ s.clock.state = .running ∧ s.clock.holdRequested = false ∧ s.sync.window = none) ∧
      ∀ d ∈ disciplines, ∀ count ∈ [6236, 6237],
        (syncing count 0 d).nReset = true ∧ (syncing count 0 d).clock.state = .running ∧
          (syncing count 0 d).clock.holdRequested = false ∧
          windowCloses (syncing count 0 d) = decide (count = 6237) := by
  decide +kernel

/-- R146: the tick that ends at the mark 6,237 has the window of that mark, of half-width 2 in TRACKING and 5 in HOLDOVER; the
tick before it has none. -/
theorem test_tickEnd_window :
    (after .tickEnd (syncing 6235 0 ⟨.tracking, some 5237, 0, 0, none⟩)).sync.window = some ⟨6237, 2⟩ ∧
      (after .tickEnd (syncing 6235 0 ⟨.holdover, some 5237, 0, 0, none⟩)).sync.window = some ⟨6237, 5⟩ ∧
      (after .tickEnd (syncing 6234 0 ⟨.tracking, some 5237, 0, 0, none⟩)).sync.window = none := by
  decide +kernel

/-- A clock at the start of a tick, with a divisor, a trim in use and a correction or not. -/
def ticking (divisor : Nat) (trim : Int) (corrected : Bool) : State :=
  let s := running 5
  { s with clock := { s.clock with divisor := divisor, trimInUse := trim, phase := ⟨0, 0, corrected⟩ } }

/-- Witness of TickLastsItsCycles: divisor 1 without a correction and with a negative one, and divisor 2 with a positive. -/
theorem witness_TickLastsItsCycles :
    ∀ s ∈ [ticking 1 0 false, ticking 1 (-255) true, ticking 2 255 true],
      s.nReset = true ∧ s.clock.state = .running ∧ s.clock.phase.step = 0 ∧ s.clock.phase.cycle = 0 ∧
        1 ≤ s.clock.divisor ∧ (s.clock.phase.corrected = true → 0 < s.clock.trimInUse → 2 ≤ s.clock.divisor) := by
  simp [ticking, running, LeaseClock.reset, State.reset]

/-- Witness of TickLastsItsCycles: ticks before and after the mark of a window. -/
theorem witness_TickLastsItsCycles_window :
    ∀ d ∈ disciplines, ∀ count ∈ [6236, 6237],
      let s := syncing count 0 d
      s.nReset = true ∧ s.clock.state = .running ∧ s.clock.phase.step = 0 ∧ s.clock.phase.cycle = 0 ∧
        1 ≤ s.clock.divisor ∧ s.clock.phase.corrected = false := by
  decide +kernel

/-- Witness of TrimCorrectsExactly: the smallest and the largest magnitude, and a corrected position. -/
theorem witness_TrimCorrectsExactly :
    0 ≤ 255 ∧ (List.range 1024).countP (trimCorrects 0) = 0 ∧ trimCorrects 255 1023 = true := by
  decide +kernel

/-- A hold is requested by a CLOCK-HOLD. -/
def holding (s : State) : State :=
  { s with
    clock := { s.clock with holdRequested := true }
    management := { s.management with held := some (request .clockHold 0 []) } }

/-- Witness of HoldTakesEffectAtTickEnd, at the largest count too. -/
theorem witness_HoldTakesEffectAtTickEnd :
    ∀ s ∈ [holding (running 5), holding (running 281474976710655)],
      s.nReset = true ∧ s.clock.state = .running ∧ s.clock.holdRequested = true ∧
        s.management.held = some (request .clockHold 0 []) ∧ s.sync.window = none := by
  simp [holding, running, LeaseClock.reset, State.reset, SyncDiscipline.reset]

/-- Witness of HoldTakesEffectAtTickEnd: a window at hand, and one that closes in the tick. -/
theorem witness_HoldTakesEffectAtTickEnd_window :
    ∀ d ∈ disciplines, ∀ count ∈ [6236, 6237],
      let s := holding (syncing count 0 d)
      s.nReset = true ∧ s.clock.state = .running ∧ s.clock.holdRequested = true ∧
        s.management.held = some (request .clockHold 0 []) ∧ windowCloses s = decide (count = 6237) := by
  decide +kernel

/-- R150: the hold at the mark abandons its window without a miss. -/
theorem test_holdTakesEffect_window :
    (after .holdTakesEffect (holding (syncing 6236 15 (sixthMark .tracking 0 2)))).sync =
      ⟨.tracking, some 5237, 0, 2, none⟩ := by
  decide +kernel

/-- Witness of FirstEdgeSetsOrigin: section 8.6, event 1, without a hold and with one. -/
theorem witness_FirstEdgeSetsOrigin :
    ∀ s ∈ [syncing 5236 9 ⟨.acquiring, none, 0, 0, none⟩, holding (syncing 5236 9 ⟨.acquiring, none, 0, 0, none⟩)],
      s.nReset = true ∧ s.clock.state = .running ∧ s.sync.state = .acquiring ∧ s.sync.origin = none ∧
        s.clock.phase.step ≤ 9 := by
  simp [holding, syncing, running, LeaseClock.reset, State.reset]

/-- A discipline in ACQUIRING whose window of the mark 6,237 is at hand or open. -/
def window6237 : SyncDiscipline := ⟨.acquiring, some 5237, 0, 0, some ⟨6237, 5⟩⟩

/-- The premises of EdgeInWindowIsHit, for an edge in step `k` with the window of the mark 6,237 at hand, in a tick below the
largest count. -/
def edgeCheck (k : Fin 16) (s : State) : Bool :=
  s.nReset && s.clock.state == .running && s.sync.origin == some 5237 && s.sync.state != .off
    && decide (s.clock.phase.step ≤ k) && decide (s.clock.count < Config.maxCount)
    && s.sync.window == some ⟨6237, if s.sync.state = .tracking then 2 else 5⟩

/-- Witness of EdgeInWindowIsHit, hits: the first and the last step of an early hit and of a late one, with a hold requested
and without, at both hit counts, in every discipline state. -/
theorem witness_EdgeInWindowIsHit :
    (∀ d ∈ [sixthMark .acquiring 0 0, sixthMark .acquiring 1 0, sixthMark .holdover 0 7, sixthMark .holdover 1 0],
      (∀ k ∈ [(11 : Fin 16), 15],
        16 ≤ k.val + 5 ∧ edgeCheck k (syncing 6236 k d) = true ∧ edgeCheck k (holding (syncing 6236 k d)) = true) ∧
      ∀ k ∈ [(0 : Fin 16), 5],
        k.val ≤ 5 ∧ edgeCheck k (syncing 6237 k d) = true ∧ edgeCheck k (holding (syncing 6237 k d)) = true) ∧
      (∀ k ∈ [(14 : Fin 16), 15], 16 ≤ k.val + 2 ∧ edgeCheck k (syncing 6236 0 (sixthMark .tracking 0 2)) = true) ∧
      ∀ k ∈ [(0 : Fin 16), 2], k.val ≤ 2 ∧ edgeCheck k (syncing 6237 0 (sixthMark .tracking 0 2)) = true := by
  decide +kernel

/-- Witness of EdgeInWindowIsHit, no hit: no window at hand; the step after the window's close, with misses that keep the
origin and misses that discard it, a hold requested and not; the step before the window opens; and a tick that no mark
bounds. -/
theorem witness_EdgeInWindowIsHit_miss :
    (let s := syncing 6236 11 ⟨.tracking, some 5237, 0, 0, none⟩
     s.nReset = true ∧ s.clock.state = .running ∧ s.sync.origin ≠ none ∧ s.sync.window = none ∧
      s.clock.phase.step ≤ 11) ∧
      (edgeCheck 3 (syncing 6237 2 (sixthMark .tracking 0 2)) = true ∧
        edgeCheck 6 (syncing 6237 5 (sixthMark .holdover 0 6)) = true) ∧
      (∀ d ∈ [sixthMark .acquiring 1 0, sixthMark .holdover 1 7],
        edgeCheck 6 (syncing 6237 5 d) = true ∧ edgeCheck 6 (holding (syncing 6237 5 d)) = true ∧
          (d.state = .acquiring ∨ (d.state = .holdover ∧ d.misses + 1 = 8))) ∧
      (edgeCheck 13 (syncing 6236 0 (sixthMark .tracking 0 0)) = true ∧ 13 + 2 < 16) ∧
      (edgeCheck 10 (syncing 6236 10 (sixthMark .acquiring 0 0)) = true ∧ 10 + 5 < 16) ∧
      edgeCheck 15 (syncing 6235 0 (sixthMark .tracking 0 0)) = true := by
  decide +kernel

/-- Section 8.6: an edge in step 6 of the tick after a mark, in ACQUIRING, finds the miss counted, ends that tick and makes its
end the new origin (R147, R149). -/
theorem test_syncEdge_restarts :
    let t := after (.syncEdge 6) (syncing 6237 0 (sixthMark .acquiring 1 0))
    t.clock.count = 6238 ∧ t.sync = ⟨.acquiring, some 6238, 0, 0, none⟩ := by
  decide +kernel

/-- Witness of ClosedWindowIsMiss: the last step of a window of ±5 and of ±2, in each state and at each count of misses. -/
theorem witness_ClosedWindowIsMiss :
    ∀ d ∈ [window6237, ⟨.tracking, some 5237, 0, 1, some ⟨6237, 2⟩⟩, ⟨.tracking, some 5237, 0, 2, some ⟨6237, 2⟩⟩,
        ⟨.holdover, some 5237, 0, 6, some ⟨6237, 5⟩⟩, ⟨.holdover, some 5237, 0, 7, some ⟨6237, 5⟩⟩],
      ∃ w, (syncing 6237 2 d).nReset = true ∧ (syncing 6237 2 d).clock.state = .running ∧
        (syncing 6237 2 d).sync.window = some w ∧ w.mark = (syncing 6237 2 d).clock.count ∧
        (syncing 6237 2 d).clock.phase.step.val ≤ w.halfWidth ∧ w.halfWidth ≤ 5 := by
  simp [syncing, running, window6237, LeaseClock.reset, State.reset]

/-- Witness of ClosedWindowIsMiss: the last REFCLK cycle of step W. -/
theorem witness_ClosedWindowIsMiss_refclk :
    ∀ d ∈ disciplines, ∃ w,
      let s := syncing 6237 (Fin.ofNat 16 (if d.state = .tracking then 2 else 5)) d
      let u := { s with clock := { s.clock with phase := { s.clock.phase with cycle := 1535 } } }
      u.sync.window = some w ∧ w.mark = u.clock.count ∧ u.clock.phase.step.val = w.halfWidth ∧
        u.clock.phase.corrected = false ∧ u.clock.divisor ≤ u.clock.phase.cycle + 1 := by
  simp [disciplines, sixthMark, syncing, running, LeaseClock.reset, State.reset]

/-- Witness of ExpiryUnitOffersReachedHead: a deadline at the count, one above it, an empty list and an offered item. -/
theorem witness_ExpiryUnitOffersReachedHead :
    ({ running 50000 with deadlines := [⟨50000, 3⟩] } : State).deadlines = ⟨50000, 3⟩ :: [] ∧
      (⟨50000, 3⟩ : DeadlineItem).deadline ≤ (running 50000).clock.count ∧
      (running 49999).clock.count < (⟨50000, 3⟩ : DeadlineItem).deadline ∧ (running 50000).deadlines = [] ∧
      (running 50000).offer = none ∧ ({ running 50000 with offer := some 3 } : State).offer ≠ none ∧
      (running 50000).nReset = true := by
  refine ⟨rfl, by decide, by decide, rfl, rfl, ?_, rfl⟩
  simp

/-- Witness of GuardLineFollowsHolding: a begin at the end of the gap and one before it, an end of an asserted and of a
waiting line, and a comparison at the assert at and one before it. -/
theorem witness_GuardLineFollowsHolding :
    (clearLine 1 10200).state = .clear 1 ∧ satAdd 10200 30 ≤ 10230 ∧ 10229 < satAdd 10200 30 ∧
      (⟨.asserted 1, 10200⟩ : GuardLine).state = .asserted 1 ∧
      ((((⟨.asserted 1, 0⟩ : GuardLine).exclusiveEnd 10200).exclusiveBegin 30 10230).compare 10229).state.output = true ∧
      ((running 10230).modifyLine 5 (fun _ => ⟨.gapWait 1 10230, 10200⟩)).lines[5].state = .gapWait 1 10230 ∧
      10230 ≤ (running 10230).clock.count ∧ (running 10229).clock.count < 10230 ∧ (running 10230).nReset = true := by
  decide +kernel

/-! Links. -/

/-- A response. -/
def granted9000 : Response := ⟨.granted, 3, 3, 70, 8000, 0, 0, []⟩

/-- An exchange of the management port in a state. -/
def exchanging (x : ExchangeState) : State :=
  (running 8020).setExchange .management
    ⟨x, if x = .pending then some (request .claim 0 []) else none,
      if x = .ready ∨ x = .collected then some granted9000 else none, none⟩

/-- Witness of CommandByteDecides: an idle link in device reset, on a port whose line is high, and
in each exchange state. -/
theorem witness_CommandByteDecides :
    (∀ s ∈ [exchanging .idle, exchanging .pending, exchanging .ready, exchanging .collected],
      s.nReset = true ∧ s.lineHigh .management = false ∧ (s.link .management).transaction = none) ∧
      (∀ x ∈ [ExchangeState.idle, .pending, .ready, .collected], ((exchanging x).exchange .management).state = x) ∧
      ((exchanging .ready).exchange .management).buffer = some granted9000 ∧
      ((exchanging .collected).exchange .management).buffer = some granted9000 ∧
      (after .nresetFall (running 5)).nReset = false ∧
      ((after .nresetFall (running 5)).link .management).transaction = none ∧
      (after (.portRstRise 0) (running 5)).lineHigh (.client 0) = true ∧
      (after (.portRstRise 0) (running 5)).nReset = true ∧
      ((after (.portRstRise 0) (running 5)).link (.client 0)).transaction = none := by
  decide +kernel

/-- Witness of CollectShiftsResponse: READY and COLLECTED with a response. -/
theorem witness_CollectShiftsResponse :
    ∀ x ∈ [ExchangeState.ready, .collected],
      (exchanging x).nReset = true ∧ ((exchanging x).link .management).transaction = none ∧
        (exchanging x).lineHigh .management = false ∧ ((exchanging x).exchange .management).state = x ∧
        ((exchanging x).exchange .management).buffer = some granted9000 := by
  decide +kernel

/-- P2 of section 9.9 after step 2, with a SUBMIT under way: its replay record is the CLAIM of request id 70. -/
def replaying : State :=
  let f := frameOf (frameBytes 0x03 3 70 (List.replicate 17 0))
  submitting (.client 2) ((running 8020).modifyClient 2 (fun c =>
    { c with
      session := .online
      epoch := 3
      exchange := ⟨.ready, none, some granted9000, some ⟨70, 0x03, f.crc, granted9000⟩⟩ }))

/-- Witness of SubmitChecksFrameInOrder: a frame for each check (too short by a byte, a body length of 65, a wrong CRC, one
that replays, one on an OFFLINE port, one with a stale epoch, and an OPEN that passes). -/
theorem witness_SubmitChecksFrameInOrder :
    (∀ s ∈ [replaying, submitting (.client 2) (running 0)],
      s.link (.client 2) = ⟨some ⟨.submit, .takeFrame, [⟨[0x6E], 0xFF⟩], false⟩, [0xFF]⟩) ∧
      (List.replicate 5 (0 : Byte)).length < 6 ∧ 64 < (((0 : Byte) :: 0 :: 0 :: 65 :: []).getD 3 0).toNat ∧
      (frameOf [1, 0, 0, 0, 0, 0]).crc ≠ crc16 [1, 0, 0, 0] ∧
      (let b := frameBytes 0x03 3 70 (List.replicate 17 0)
       b.length = 6 + (b.getD 3 0).toNat ∧ (frameOf b).crc = crc16 (b.take (4 + (b.getD 3 0).toNat)) ∧
        (frameOf b).epoch = replaying.clients[2].epoch ∧
        (replaying.exchange (.client 2)).replay =
          some ⟨(frameOf b).requestId, (frameOf b).kind, (frameOf b).crc, granted9000⟩) ∧
      (frameOf (frameBytes 0x03 3 72 [])).kind ≠ 0x01#8 ∧ (running 0).clients[2].session = .offline ∧
      (submitting (.client 2) (running 0)).replayOf (.client 2) (frameOf (frameBytes 0x03 3 72 [])) = none ∧
      (replaying.clients[2].session ≠ .offline ∧ (frameOf (frameBytes 0x03 4 72 [])).epoch ≠ replaying.clients[2].epoch) ∧
      (frameOf (frameBytes 0x01 0 9 [])).kind = 0x01#8 := by
  decide +kernel

/-- Witness of TransactionsWithoutEffect: a transaction of each kind that is to do nothing, and a link without one. -/
theorem witness_TransactionsWithoutEffect :
    (∀ x ∈ [Selection.submit, .collect, .other],
      (((running 0).setLink .management ⟨some ⟨x, .nothing, [Shift.filler], true⟩, []⟩).link .management).transaction =
        some ⟨x, .nothing, [Shift.filler], true⟩) ∧
      ((running 0).link .management).transaction = none := by
  decide +kernel

/-- Witness of FramesAndHandlesRoundTrip: bytes that pass the checks as a frame, and the largest handle value. -/
theorem witness_FramesAndHandlesRoundTrip :
    checkFrame (frameBytes 0x0B 0 9 [0x10, 0x03]) = .ok ⟨0x0B, 0, 9, [0x10, 0x03], 0x63B5#16⟩ ∧ 65535 < 65536 := by
  decide +kernel

/-! Items. -/

/-- Witness of ArbiterServesInRotation: two requests and an offer, of which P0's is granted. -/
theorem witness_ArbiterServesInRotation :
    let s := ask (.client 0) .leave [] (ask (.client 5) .leave [] { running 5 with offer := some 3 })
    s.granted = some (.port 0) ∧ s.nReset = true ∧ s.resetItemPort = none ∧ s.hasItem (.port 5) = true ∧
      s.hasItem .expiryUnit = true := by
  decide +kernel

/-- Witness of KindAndLengthCheckedFirst: a kind not permitted, a body of the wrong length (also of an OPEN), a code that names
no kind, and a step of another kind than the one granted. -/
theorem witness_KindAndLengthCheckedFirst :
    (ask .management .claim [] (running 5)).grantedRequest = some (.management, request .claim 0 []) ∧
      (request .claim 0 []).kind = Kind.claim.code ∧ Kind.claim.permitted .management = false ∧
      (ask (.client 0) .openSession [0] (running 5)).grantedRequest =
        some (.client 0, request .openSession 1 [0]) ∧
      Kind.openSession.permitted (.client 0) = true ∧ Kind.openSession.bodyFits [0] = false ∧
      Kind.claim.permitted (.client 0) = true ∧ Kind.claim.bodyFits (List.replicate 16 0) = false ∧
      (ask (.client 0) .openSession [0] (running 5)).mute (.client 0) = false ∧
      (∀ k ∈ Kind.all, (0x3F : Byte) ≠ k.code) ∧ (request .claim 0 []).kind ≠ Kind.leave.code := by
  decide +kernel

/-- Witness of OpenStartsSession: an OFFLINE port with epoch 255, and an ONLINE one. -/
theorem witness_OpenStartsSession :
    let s := (running 5).modifyClient 2 (fun c =>
      { c with epoch := 255, exchange := ⟨.pending, some (request .openSession 0 []), none, none⟩ })
    let u := ask (.client 2) .openSession [] (running 5)
    (s.serves .openSession (.client 2) (request .openSession 0 []) ∧ s.clients[2].session = .offline ∧
        s.clients[2].epoch = 0xFF#8) ∧
      u.serves .openSession (.client 2) (request .openSession 1 []) ∧ u.clients[2].session = .online :=
  ⟨⟨serves_of_check (by decide +kernel), by decide +kernel, by decide +kernel⟩, serves_of_check (by decide +kernel),
    by decide +kernel⟩

/-- Witness of LeaveEndsSession: P4 of section 10.8 leaves, and P1's claim is promoted. -/
theorem witness_LeaveEndsSession :
    let s := ask (.client 4) .leave [] stalled
    s.serves .leave (.client 4) (request .leave 1 []) ∧ CountsOk s ∧ TableOk s ∧ (s.lease 90).map Lease.port = some 4 :=
  ⟨serves_of_check (by decide +kernel), countsOk_of_check (by decide +kernel), tableOk_of_check (by decide +kernel),
    by decide +kernel⟩

/-! Claims. -/

/-- Port 3 sends a CLAIM in a state. -/
def claims (body : List Byte) (s : State) : State := ask (.client 3) .claim body s

/-- The body of a CLAIM without a client tag: resource 0x0120, a mode code, a term below 256 and a wait code. -/
def claim120 (mode term wait : Byte) : List Byte := [0x20, 0x01, mode, term, 0, 0, 0, wait, 1, 0, 0, 0, 0, 0, 0, 0, 0]

/-- The hypotheses of ClaimRefusedChangesNothing hold of a CLAIM of port 3. -/
def Refuses (s : State) (b : List Byte) (status : Status) (body : List Byte) : Prop :=
  (claims b s).serves .claim (.client 3) (request .claim 1 b) ∧
    ClaimRefusal (claims b s) 3 (ClaimArgs.read b) status body

theorem not_grantable {e : Entry} {m : Mode} (h : e.grantable m = false) : ¬ GrantableNow e m := fun hg => by
  rw [(grantable_iff e m).mpr hg] at h
  cases h

theorem inRange_of_check {a : ClaimArgs} {m : Mode} {w : Wait} (hm : a.mode = some m) (hw : a.wait = some w)
    (h : a.inRange = true) : ClaimInRange a m w := (claimInRange_iff a m w hm hw).mp h

theorem not_live_of_check {s : State} {p : Port} {r : Nat} (h : s.liveOn p r = none) : ∀ i, ¬ LiveAt s p r i :=
  State.liveOn_eq_none.mp h

theorem mem_present {s : State} {j : Index} {l : Lease} (h : s.lease j = some l) : j ∈ s.select Option.isSome := by
  simp [h]

/-- Resource 0x0120, VACANT, with its fencing counter and the most waiters. -/
def vacant120 (sharing : Bool) (counter most : Nat) : Entry :=
  ⟨0x120, .vacant, { settings120 with sharing := sharing, maxWaiters := most }, counter, [], none, []⟩

/-- The part with resource 0x0120 VACANT. -/
def oneVacant (sharing : Bool) (counter : Nat) : State :=
  declared (vacant120 sharing counter 3) (clearLine 0x120 0) (running 20000)

/-- Resource 0x0120, SHARED by P0's record 5, with nobody waiting. -/
def shared120Entry (most : Nat) : Entry :=
  ⟨0x120, .shared, { settings120 with maxWaiters := most }, 8, [⟨5, 0⟩], none, []⟩

/-- The part with resource 0x0120 SHARED by record 5 of a port. -/
def oneShared (p : Port) (most : Nat) : State :=
  filed 5 0 (lease p 0x120 .shared 2000 (.held ⟨8, 20000⟩ 22000 false))
    (declared (shared120Entry most) (clearLine 0x120 0) (running 20030))

/-- Witness of ClaimRefusedChangesNothing, checks 1 to 3: STOPPED, no entry, and a mode refused. -/
theorem witness_ClaimRefused_resource :
    Refuses State.reset (claim120 0 100 0) .clockStopped [] ∧ Refuses (running 5) (claim120 0 100 0) .noResource [] ∧
      Refuses (oneVacant false 7) (claim120 0 100 0) .modeRefused [] :=
  ⟨⟨serves_of_check (by decide +kernel), .clockStopped (by decide +kernel)⟩,
    ⟨serves_of_check (by decide +kernel), .noResource (by decide +kernel) (by decide +kernel)⟩,
    ⟨serves_of_check (by decide +kernel),
      .modeRefused (vacant120 false 7 3) (by decide +kernel) (by decide +kernel) (by decide +kernel) (by decide +kernel)⟩⟩

/-- Witness of ClaimRefusedChangesNothing, check 4: a term of 0. -/
theorem witness_ClaimRefused_badArgument : Refuses (oneVacant true 7) (claim120 0 0 0) .badArgument [] := by
  refine ⟨serves_of_check (by decide +kernel), .badArgument (vacant120 true 7 3) (by decide +kernel) (by decide +kernel)
    (fun _ => by decide +kernel) (fun m w h => ?_)⟩
  have h1 := h.2.2.1
  revert h1
  decide +kernel

/-- Witness of ClaimRefusedChangesNothing, checks 5 and 6: a live record of the port, and a live count at the quota. -/
theorem witness_ClaimRefused_port :
    Refuses (oneShared 3 3) (claim120 0 100 0) .already [5, 0, 2] ∧
      Refuses ((oneVacant true 7).modifyPort 3 (fun c => { c with quota := 1, live := 1 })) (claim120 0 100 0) .quota
        [1, 0] := by
  refine ⟨⟨serves_of_check (by decide +kernel), ?_⟩, serves_of_check (by decide +kernel), ?_⟩
  · have h1 : (claims (claim120 0 100 0) (oneShared 3 3)).liveOn 3 0x120 = some 5 := by decide +kernel
    have hl : ∀ j, LiveAt (claims (claim120 0 100 0) (oneShared 3 3)) 3 0x120 j → j = 5 := by
      rintro j ⟨l, hj, -, -, -⟩
      have : (claims (claim120 0 100 0) (oneShared 3 3)).select Option.isSome = [5] := by decide +kernel
      have hm := mem_present hj
      rw [this] at hm
      simpa using hm
    exact .already (shared120Entry 3) .shared .no 5 (lease 3 0x120 .shared 2000 (.held ⟨8, 20000⟩ 22000 false))
      (by decide +kernel) (by decide +kernel) (fun _ => by decide +kernel)
      (inRange_of_check (by decide +kernel) (by decide +kernel) (by decide +kernel)) (by decide +kernel)
      (State.liveAt_of_liveOn h1) hl
  · exact .quota (vacant120 true 7 3) .shared .no (by decide +kernel) (by decide +kernel) (fun _ => by decide +kernel)
      (inRange_of_check (by decide +kernel) (by decide +kernel) (by decide +kernel))
      (not_live_of_check (by decide +kernel)) (by decide +kernel)

/-- Witness of ClaimRefusedChangesNothing, check 7: a counter at its limit. -/
theorem witness_ClaimRefused_exhausted :
    Refuses (oneVacant true 4294967295) (claim120 0 100 0) .exhausted [0x20, 0x01] :=
  ⟨serves_of_check (by decide +kernel),
    .exhausted (vacant120 true 4294967295 3) .shared .no (by decide +kernel) (by decide +kernel)
      (fun _ => by decide +kernel) (inRange_of_check (by decide +kernel) (by decide +kernel) (by decide +kernel))
      (not_live_of_check (by decide +kernel)) (by decide +kernel) ((grantable_iff _ _).mp (by decide +kernel))
      (by decide +kernel)⟩

/-- Witness of ClaimRefusedChangesNothing, checks 8 and 9: no wait on a SHARED resource, and a queue of 0 that is full. -/
theorem witness_ClaimRefused_queue :
    Refuses (oneShared 0 3) (claim120 1 100 0) .conflict [2, 1] ∧
      Refuses (oneShared 0 0) (claim120 1 100 1) .queueFull [0] :=
  ⟨⟨serves_of_check (by decide +kernel),
      .conflict (shared120Entry 3) .exclusive (by decide +kernel) (by decide +kernel) (fun h => by cases h)
        (inRange_of_check (by decide +kernel) (by decide +kernel) (by decide +kernel))
        (not_live_of_check (by decide +kernel)) (by decide +kernel) (not_grantable (by decide +kernel))⟩,
    serves_of_check (by decide +kernel),
    .queueFull (shared120Entry 0) .exclusive (.ticks 1) (by decide +kernel) (by decide +kernel) (fun h => by cases h)
      (inRange_of_check (by decide +kernel) (by decide +kernel) (by decide +kernel))
      (not_live_of_check (by decide +kernel)) (by decide +kernel) (not_grantable (by decide +kernel))
      (by decide +kernel) (by decide +kernel)⟩

/-- Witness of ClaimRefusedChangesNothing, check 10: both lists empty. -/
theorem witness_ClaimRefused_tableFull :
    Refuses { oneVacant true 7 with freePool := [] } (claim120 0 100 0) .tableFull [] :=
  ⟨serves_of_check (by decide +kernel),
    .tableFull (vacant120 true 7 3) .shared .no (claimPasses_of_check (by decide +kernel)) (by decide +kernel)
      (by decide +kernel)⟩

/-- Witness of ClaimGrantedAtOnce: section 3.9, step 1. -/
theorem witness_ClaimGrantedAtOnce :
    let s := claims (claim120 0 100 0) contention
    let e : Entry := ⟨0x120, .vacant, settings120, 7, [], none, []⟩
    s.serves .claim (.client 3) (request .claim 1 (claim120 0 100 0)) ∧ EntryOk s e ∧ s.lease 5 = none ∧
      ClaimPasses s 3 (ClaimArgs.read (claim120 0 100 0)) .shared .no e ∧ GrantableNow e .shared ∧
      s.freePool = 5 :: allIndices.erase 5 :=
  ⟨serves_of_check (by decide +kernel), entryOk_of_check (by decide +kernel), by decide +kernel,
    claimPasses_of_check (by decide +kernel), (grantable_iff _ _).mp (by decide +kernel), by decide +kernel⟩

/-- Witness of ClaimQueued: section 3.9, step 2, with a wait of one tick. -/
theorem witness_ClaimQueued :
    let s := claims (claim120 1 100 1) (oneShared 0 3)
    s.serves .claim (.client 3) (request .claim 1 (claim120 1 100 1)) ∧ s.lease 0 = none ∧
      ClaimPasses s 3 (ClaimArgs.read (claim120 1 100 1)) .exclusive (.ticks 1) (shared120Entry 3) ∧
      ¬ GrantableNow (shared120Entry 3) .exclusive ∧ s.freePool.head? = some 0 :=
  ⟨serves_of_check (by decide +kernel), by decide +kernel, claimPasses_of_check (by decide +kernel),
    not_grantable (by decide +kernel), by decide +kernel⟩

/-- The only CLOSED record, of P5, and an empty free pool; P5's lapsed-unseen count is given. -/
def lastClosed (lapsed : Nat) (s : State) : State :=
  { (filed 12 4 { lease 5 0x102 .shared 1000 (.closed (some ⟨8, 60⟩) .lapsed) with flags := ⟨false, false, false, true⟩ }
      s).modifyPort 5 (fun c => { c with lapsed := lapsed }) with freePool := [] }

/-- Witness of ClaimReclaimsOldestClosed: section 1.11, step 2, granted and queued, the lapsed-unseen count at 0 and 255. -/
theorem witness_ClaimReclaimsOldestClosed :
    let s := claims (claim120 0 100 0) (lastClosed 255 (oneVacant true 7))
    let u := claims (claim120 1 100 2) (lastClosed 0 (oneShared 0 3))
    let old : Lease :=
      { lease 5 0x102 .shared 1000 (.closed (some ⟨8, 60⟩) .lapsed) with flags := ⟨false, false, false, true⟩ }
    (s.serves .claim (.client 3) (request .claim 1 (claim120 0 100 0)) ∧ EntryOk s (vacant120 true 7 3) ∧
      ClaimPasses s 3 (ClaimArgs.read (claim120 0 100 0)) .shared .no (vacant120 true 7 3) ∧
      GrantableNow (vacant120 true 7 3) .shared ∧ s.lease 12 = some old ∧ s.freePool = [] ∧ s.closedOrder = 12 :: []) ∧
    u.serves .claim (.client 3) (request .claim 1 (claim120 1 100 2)) ∧ EntryOk u (shared120Entry 3) ∧
      ClaimPasses u 3 (ClaimArgs.read (claim120 1 100 2)) .exclusive .indefinite (shared120Entry 3) ∧
      ¬ GrantableNow (shared120Entry 3) .exclusive ∧ u.lease 12 = some old ∧ u.freePool = [] ∧ u.closedOrder = 12 :: [] :=
  ⟨⟨serves_of_check (by decide +kernel), entryOk_of_check (by decide +kernel), claimPasses_of_check (by decide +kernel),
      (grantable_iff _ _).mp (by decide +kernel), by decide +kernel, by decide +kernel, by decide +kernel⟩,
    serves_of_check (by decide +kernel), entryOk_of_check (by decide +kernel), claimPasses_of_check (by decide +kernel),
    not_grantable (by decide +kernel), by decide +kernel, by decide +kernel, by decide +kernel⟩

/-! Renewal, release and conversion. -/

/-- Section 4.7, as P3's record 31 is GRACE. -/
def lateP3 : State := upgrading 40600 true (.grace ⟨60, 40000⟩ 40800) ⟨false, false, true, false⟩

/-- The entry of resource 0x0450. -/
def entry450 (upgrade : Option Handle) : Entry :=
  ⟨0x450, .shared, ⟨true, 3, 100, 10000, 300, 4, some 9, 50⟩, 60, [⟨30, 2⟩, ⟨31, 0⟩], upgrade, [⟨44, 1⟩]⟩

/-- Witness of RenewMovesDeadline: a HELD record with a term of 1 and with the largest, and a GRACE record without a term. -/
theorem witness_RenewMovesDeadline :
    (∀ b ∈ [[0x1E, 0x04, 1, 1, 0, 0, 0], [0x1E, 0x04, 1, 0xFF, 0xFF, 0x3F, 0]],
      let s := ask (.client 0) .renew b lateP3
      servesCheck s .renew (.client 0) (request .renew 1 b) = true ∧ s.clock.state ≠ .stopped ∧
        s.resolve (.client 0) (readHandle b) = some (lease 0 0x450 .shared 1000 (.held ⟨59, 40000⟩ 41000 true)) ∧
        s.entry 0x450 = some (entry450 (some ⟨30, 2⟩)) ∧
        (readRenewTerm b).all (fun n => decide (1 ≤ n) && decide (n ≤ Config.maxTerm)) = true) ∧
      let b : List Byte := [0x1F, 0x00, 0, 0, 0, 0, 0]
      let s := ask (.client 3) .renew b lateP3
      servesCheck s .renew (.client 3) (request .renew 1 b) = true ∧ readRenewTerm b = none ∧
        (s.resolve (.client 3) (readHandle b)).map Lease.phase = some (.grace ⟨60, 40000⟩ 40800) := by
  decide +kernel

/-- Witness of HandleRequestsRefused: for each request a handle that does not resolve and each state that does not suit, with
terms of 0 and one above the largest, a wait code of 2, and the refused upgrades of section 4.7. -/
theorem witness_HandleRequestsRefused :
    (let s := fun (b : List Byte) => ask (.client 0) .renew b lateP3
     (∀ b ∈ [[0x1E, 0x06, 0, 0, 0, 0, 0], [0x1E, 0x04, 1, 0, 0, 0, 0], [0x1E, 0x04, 1, 0, 0, 0x40, 0]],
        servesCheck (s b) .renew (.client 0) (request .renew 1 b) = true ∧ (s b).clock.state ≠ .stopped) ∧
      (s [0x1E, 0x06, 0, 0, 0, 0, 0]).resolve (.client 0) ⟨30, 3⟩ = none ∧
      readHandle [0x1E, 0x06, 0, 0, 0, 0, 0] = ⟨30, 3⟩ ∧ readRenewTerm [0x1E, 0x04, 1, 0, 0, 0, 0] = some 0 ∧
      readRenewTerm [0x1E, 0x04, 1, 0, 0, 0x40, 0] = some 4194304) ∧
      (let s := ask (.client 0) .renew [0, 0, 0, 0, 0, 0, 0] State.reset
       servesCheck s .renew (.client 0) (request .renew 1 [0, 0, 0, 0, 0, 0, 0]) = true ∧ s.clock.state = .stopped) ∧
      (let b : List Byte := [44, 2, 0, 0, 0, 0, 0]
       let s := ask (.client 5) .renew b lateP3
       servesCheck s .renew (.client 5) (request .renew 1 b) = true ∧
        (s.resolve (.client 5) (readHandle b)).map Lease.phase = some (.waiting none)) ∧
      (let b : List Byte := [0x5A, 0x0A, 0, 0, 0, 0, 0]
       let s := ask (.client 4) .renew b revoked
       servesCheck s .renew (.client 4) (request .renew 1 b) = true ∧
        (s.resolve (.client 4) (readHandle b)).map Lease.phase = some (.closed (some ⟨30, 100000⟩) .revoked)) ∧
      (let s := ask (.client 0) .release [1, 0] (running 5)
       servesCheck s .release (.client 0) (request .release 1 [1, 0]) = true ∧ s.resolve (.client 0) ⟨1, 0⟩ = none) := by
  decide +kernel

/-- Witness of HandleRequestsRefused, UPGRADE: a record that is not HELD, wait codes 0, 1 and 2, its own upgrade pending and
another's, and no wait; an EXCLUSIVE record; a handle that does not resolve. -/
theorem witness_HandleRequestsRefused_upgrade :
    (∀ b ∈ [[0x1F, 0x00, 0], [0x1F, 0x00, 1], [0x1F, 0x00, 2]],
      let s := ask (.client 3) .upgrade b (upgrading 40200 true heldP3 NoticeFlags.none)
      let u := ask (.client 3) .upgrade b (upgrading 40200 false heldP3 NoticeFlags.none)
      servesCheck s .upgrade (.client 3) (request .upgrade 1 b) = true ∧
        s.resolve (.client 3) (readHandle b) = some (lease 3 0x450 .shared 500 heldP3) ∧
        s.entry 0x450 = some (entry450 (some ⟨30, 2⟩)) ∧
        servesCheck u .upgrade (.client 3) (request .upgrade 1 b) = true ∧ u.entry 0x450 = some (entry450 none) ∧
        u.resolve (.client 3) (readHandle b) = some (lease 3 0x450 .shared 500 heldP3)) ∧
      (let b : List Byte := [0x1E, 0x04, 1]
       let s := ask (.client 0) .upgrade b lateP3
       servesCheck s .upgrade (.client 0) (request .upgrade 1 b) = true ∧
        (s.resolve (.client 0) (readHandle b)).map (fun l => (l.mode, l.phase)) =
          some (.shared, .held ⟨59, 40000⟩ 41000 true)) ∧
      (let b : List Byte := [0x1F, 0x00, 1]
       let s := ask (.client 3) .upgrade b lateP3
       servesCheck s .upgrade (.client 3) (request .upgrade 1 b) = true ∧
        (s.resolve (.client 3) (readHandle b)).map (fun l => l.phase.isHeld) = some false) ∧
      (let b : List Byte := [21, 0, 0]
       let s := ask (.client 1) .upgrade b (guarded 10230 .exclusive 6 ⟨.asserted 0x700, 10200⟩)
       servesCheck s .upgrade (.client 1) (request .upgrade 1 b) = true ∧
        (s.resolve (.client 1) (readHandle b)).map (fun l => (l.mode, l.phase.isHeld)) = some (.exclusive, true)) ∧
      (let s := ask (.client 1) .upgrade [1, 0, 0] (running 5)
       servesCheck s .upgrade (.client 1) (request .upgrade 1 [1, 0, 0]) = true ∧
        s.resolve (.client 1) (readHandle [1, 0, 0]) = none) := by
  decide +kernel

/-- Witness of HandleRequestsRefused, DOWNGRADE: a WAITING record, a SHARED holder, an EXCLUSIVE one where sharing is not
allowed, and a handle that does not resolve. -/
theorem witness_HandleRequestsRefused_downgrade :
    (let s := ask (.client 5) .downgrade [44, 2] lateP3
     servesCheck s .downgrade (.client 5) (request .downgrade 1 [44, 2]) = true ∧
      (s.resolve (.client 5) (readHandle [44, 2])).map (fun l => l.phase.isHolder) = some false) ∧
      (let s := ask (.client 3) .downgrade [31, 0] lateP3
       servesCheck s .downgrade (.client 3) (request .downgrade 1 [31, 0]) = true ∧
        (s.resolve (.client 3) (readHandle [31, 0])).map (fun l => (l.mode, l.phase.isHolder)) = some (.shared, true)) ∧
      (let s := ask (.client 4) .downgrade [0x5A, 0x0A] stalled
       servesCheck s .downgrade (.client 4) (request .downgrade 1 [0x5A, 0x0A]) = true ∧
        (s.resolve (.client 4) (readHandle [0x5A, 0x0A])).map (fun l => (l.mode, l.phase.isHolder)) =
          some (.exclusive, true) ∧
        (s.entry 0xA00).map (fun e => e.settings.sharing) = some false) ∧
      (let s := ask (.client 1) .downgrade [1, 0] (running 5)
       servesCheck s .downgrade (.client 1) (request .downgrade 1 [1, 0]) = true ∧
        s.resolve (.client 1) (readHandle [1, 0]) = none) := by
  decide +kernel

/-- Witness of ReleaseFreesLiveRecord: a holder leaves (section 3.9, step 6), and a WAITING claim behind the head leaves. -/
theorem witness_ReleaseFreesLiveRecord :
    let e : Entry := ⟨0x120, .shared, settings120, 8, [⟨5, 0⟩], none, [⟨6, 0⟩, ⟨7, 0⟩]⟩
    let s := ask (.client 0) .release [5, 0] (queued120 20100)
    let u := ask (.client 2) .release [7, 0] (queued120 20100)
    let l := lease 0 0x120 .shared 2000 (.held ⟨8, 20000⟩ 22000 false)
    let m := lease 2 0x120 .shared 100 (.waiting none)
    (s.serves .release (.client 0) (request .release 1 [5, 0]) ∧ s.resolve (.client 0) (readHandle [5, 0]) = some l ∧
      l.phase.isLive = true ∧ s.entry l.resource = some e ∧ EntryOk s e ∧ LeavingPromotes ⟨5, 0⟩ l e) ∧
    u.serves .release (.client 2) (request .release 1 [7, 0]) ∧ u.resolve (.client 2) (readHandle [7, 0]) = some m ∧
      m.phase.isLive = true ∧ u.entry m.resource = some e ∧ EntryOk u e ∧ ¬ LeavingPromotes ⟨7, 0⟩ m e := by
  refine ⟨⟨serves_of_check (by decide +kernel), by decide +kernel, by decide +kernel, by decide +kernel,
    entryOk_of_check (by decide +kernel), .inl rfl⟩, serves_of_check (by decide +kernel), by decide +kernel,
    by decide +kernel, by decide +kernel, entryOk_of_check (by decide +kernel), ?_⟩
  simp [LeavingPromotes, lease, LeasePhase.isHolder]

/-- Witness of ReleaseDisposesOfClosedRecord: section 10.8, as P4 releases record 90. -/
theorem witness_ReleaseDisposesOfClosedRecord :
    let s := ask (.client 4) .release [0x5A, 0x0A] revoked
    s.serves .release (.client 4) (request .release 1 [0x5A, 0x0A]) ∧
      (s.resolve (.client 4) (readHandle [0x5A, 0x0A])).map Lease.phase = some (.closed (some ⟨30, 100000⟩) .revoked) :=
  ⟨serves_of_check (by decide +kernel), by decide +kernel⟩

/-- The entry of resource 0x0700, SHARED by record 21 alone. -/
def entry700 (counter : Nat) : Entry :=
  ⟨0x700, .shared, ⟨true, 4, 1, 1000, 0, 0, some 5, 30⟩, counter, [⟨21, 0⟩], none, []⟩

/-- Witness of UpgradeOfOnlyHolder: section 6.7, step 7, and the same with the counter at its limit. -/
theorem witness_UpgradeOfOnlyHolder :
    ∀ k ∈ [5, 4294967295],
      let s := ask (.client 1) .upgrade [21, 0, 0] (guarded 10225 .shared k (clearLine 0x700 10200))
      let l := lease 1 0x700 .shared 500 (.held ⟨k, 10210⟩ 10710 false)
      s.serves .upgrade (.client 1) (request .upgrade 1 [21, 0, 0]) ∧
        s.resolve (.client 1) (readHandle [21, 0, 0]) = some l ∧ s.entry l.resource = some (entry700 k) ∧
        EntryOk s (entry700 k) ∧ (entry700 k).holders = [readHandle [21, 0, 0]] ∧
        (byteAt ([21, 0, 0] : List Byte) 2).toNat ≤ 1 := by
  intro k hk
  simp only [List.mem_cons, List.not_mem_nil, or_false] at hk
  rcases hk with rfl | rfl <;>
    exact ⟨serves_of_check (by decide +kernel), by decide +kernel, by decide +kernel,
      entryOk_of_check (by decide +kernel), by decide +kernel, by decide +kernel⟩

/-- Witness of UpgradePlacesReference: section 4.7, step 1. -/
theorem witness_UpgradePlacesReference :
    let b : List Byte := [0x1E, 0x04, 1]
    let s := ask (.client 0) .upgrade b (upgrading 40000 false heldP3 NoticeFlags.none)
    let l := lease 0 0x450 .shared 1000 (.held ⟨59, 40000⟩ 41000 false)
    s.serves .upgrade (.client 0) (request .upgrade 1 b) ∧ s.resolve (.client 0) (readHandle b) = some l ∧
      s.entry l.resource = some (entry450 none) ∧ (entry450 none).holders ≠ [readHandle b] ∧ byteAt b 2 = 1 :=
  ⟨serves_of_check (by decide +kernel), by decide +kernel, by decide +kernel, by decide +kernel, by decide +kernel⟩

/-- Witness of DowngradeOpensResource: section 6.7, step 6. -/
theorem witness_DowngradeOpensResource :
    let s := ask (.client 1) .downgrade [21, 0] (guarded 10220 .exclusive 5 ⟨.gapWait 0x700 10230, 10200⟩)
    let l := lease 1 0x700 .exclusive 500 (.held ⟨5, 10210⟩ 10710 false)
    let e := { entry700 5 with state := .exclusive }
    s.serves .downgrade (.client 1) (request .downgrade 1 [21, 0]) ∧
      s.resolve (.client 1) (readHandle [21, 0]) = some l ∧ l.phase.isHolder = true ∧ l.mode = .exclusive ∧
      s.entry l.resource = some e ∧ EntryOk s e ∧ e.holders = [readHandle [21, 0]] ∧ e.settings.sharing = true :=
  ⟨serves_of_check (by decide +kernel), by decide +kernel, by decide +kernel, by decide +kernel, by decide +kernel,
    entryOk_of_check (by decide +kernel), by decide +kernel, by decide +kernel⟩

/-- Witness of PromotionGrantsBatchFromHead: section 2.8, step 1, and the same with the counter at its limit. -/
theorem witness_PromotionGrantsBatchFromHead :
    ∀ k ∈ [41, 4294967295],
      let s := sharers 3 k [⟨7, 1⟩, ⟨19, 0⟩] [⟨55, 3⟩, ⟨56, 3⟩, ⟨60, 0⟩, ⟨61, 0⟩] (.waiting none) (.waiting none)
      let e : Entry := ⟨0x310, .shared, ⟨true, 3, 1, 10000, 0, 8, none, 0⟩, k, [⟨7, 1⟩, ⟨19, 0⟩], none,
        [⟨55, 3⟩, ⟨56, 3⟩, ⟨60, 0⟩, ⟨61, 0⟩]⟩
      s.entry 0x310 = some e ∧ EntryOk s e ∧ e.upgrade = none ∧ (s.lease 55).isSome = true := by
  intro k hk
  simp only [List.mem_cons, List.not_mem_nil, or_false] at hk
  rcases hk with rfl | rfl <;>
    exact ⟨by decide +kernel, entryOk_of_check (by decide +kernel), by decide +kernel, by decide +kernel⟩

/-- Section 4.7 as P3 has left: record 30 alone with its upgrade pending. -/
def alone (counter : Nat) : State :=
  filed 30 2 (lease 0 0x450 .shared 1000 (.held ⟨59, 40000⟩ 42650 true))
    (declared { entry450 (some ⟨30, 2⟩) with counter := counter, holders := [⟨30, 2⟩], waiters := [] }
      (clearLine 0x450 0) (running 40800))

/-- Witness of PromotionCompletesUpgrade: with another holder, alone with the counter one below its limit, and at it. -/
theorem witness_PromotionCompletesUpgrade :
    (∀ k ∈ [4294967294, 4294967295],
      let e : Entry := { entry450 (some ⟨30, 2⟩) with counter := k, holders := [⟨30, 2⟩], waiters := [] }
      (alone k).entry 0x450 = some e ∧ EntryOk (alone k) e ∧
        (alone k).lease 30 = some (lease 0 0x450 .shared 1000 (.held ⟨59, 40000⟩ 42650 true))) ∧
      lateP3.entry 0x450 = some (entry450 (some ⟨30, 2⟩)) ∧ EntryOk lateP3 (entry450 (some ⟨30, 2⟩)) ∧
      lateP3.lease 30 = some (lease 0 0x450 .shared 1000 (.held ⟨59, 40000⟩ 41000 true)) := by
  refine ⟨fun k hk => ?_, by decide +kernel, entryOk_of_check (by decide +kernel), by decide +kernel⟩
  simp only [List.mem_cons, List.not_mem_nil, or_false] at hk
  rcases hk with rfl | rfl <;> exact ⟨by decide +kernel, entryOk_of_check (by decide +kernel), by decide +kernel⟩

/-! Reports and notices. -/

/-- Witness of ReportsChangeNothing: a handle, an id and a port number that name nothing (port 8) and ones that do (port 7). -/
theorem witness_ReportsChangeNothing :
    (∀ b ∈ [[0x5A, 0x0A], [0x5A, 0x0B]],
      servesCheck (ask .management .leaseStatus b stalled) .leaseStatus .management (request .leaseStatus 0 b) = true ∧
        ((ask .management .leaseStatus b stalled).resolve .management (readHandle b)).isSome =
          decide (b = [0x5A, 0x0A])) ∧
      (∀ b ∈ [[0x00, 0x0A], [0x01, 0x0A]],
        servesCheck (ask .management .query b stalled) .query .management (request .query 0 b) = true ∧
          ((ask .management .query b stalled).entry (field b 0 2)).isSome = decide (b = [0x00, 0x0A])) ∧
      servesCheck (ask .management .deviceStatus [] stalled) .deviceStatus .management (request .deviceStatus 0 []) = true ∧
      ∀ b ∈ [[7], [8]],
        servesCheck (ask .management .portStatus b stalled) .portStatus .management (request .portStatus 0 b) = true := by
  decide +kernel

/-- Witness of ValidateClassifiesToken: an id that no entry carries, tokens one above the counter, at it and below, on an
EXCLUSIVE entry, and the token of a SHARED holder. -/
theorem witness_ValidateClassifiesToken :
    (let s := ask (.client 0) .validate [0x01, 0x07, 6, 0, 0, 0] (running 5)
     servesCheck s .validate (.client 0) (request .validate 1 [0x01, 0x07, 6, 0, 0, 0]) = true ∧ s.entry 0x701 = none) ∧
      (∀ k ∈ [(5 : Byte), 6, 7],
        let b : List Byte := [0x00, 0x07, k, 0, 0, 0]
        let s := ask (.client 0) .validate b (guarded 10230 .exclusive 6 ⟨.asserted 0x700, 10200⟩)
        servesCheck s .validate (.client 0) (request .validate 1 b) = true ∧
          s.entry (field b 0 2) = some { entry700 6 with state := .exclusive } ∧
          entryCheck s { entry700 6 with state := .exclusive } = true ∧ s.tokenOf ⟨21, 0⟩ = some 6 ∧
          field b 2 4 = k.toNat) ∧
      (let b : List Byte := [0x00, 0x07, 5, 0, 0, 0]
       let s := ask (.client 0) .validate b (guarded 10230 .shared 5 (clearLine 0x700 10200))
       servesCheck s .validate (.client 0) (request .validate 1 b) = true ∧
        s.entry (field b 0 2) = some (entry700 5) ∧ entryCheck s (entry700 5) = true ∧
        s.tokenOf ⟨21, 0⟩ = some 5) := by
  decide +kernel

/-- Witness of FetchNoticesReportsPage: cursors 511 and 512, and cursor 0 with the three flagged records of section 7.9. -/
theorem witness_FetchNoticesReportsPage :
    let n := notices (.grace ⟨15, 60000⟩ 70200) ⟨false, false, true, false⟩
    let s := ask (.client 3) .fetchNotices [0, 0] n
    (∀ b ∈ [[0, 0], [0xFF, 0x01], [0x00, 0x02]],
      servesCheck (ask (.client 3) .fetchNotices b n) .fetchNotices (.client 3) (request .fetchNotices 1 b) = true) ∧
      field [0xFF, 0x01] 0 2 = 511 ∧ field [0x00, 0x02] 0 2 = 512 ∧
      ([40, 41, 300] : List Index).Pairwise (fun i j => i < j) ∧
      ∀ i : Index, i ∈ ([40, 41, 300] : List Index) ↔
        (0 : Nat) ≤ i.val ∧ ∃ l, s.lease i = some l ∧ l.port = 3 ∧ l.flags.any = true := by
  refine ⟨by decide +kernel, by decide +kernel, by decide +kernel, by decide +kernel, fun i => ?_⟩
  have h : (ask (.client 3) .fetchNotices [0, 0]
      (notices (.grace ⟨15, 60000⟩ 70200) ⟨false, false, true, false⟩)).select
        (fun x => x.any (fun l => l.port == 3 && l.flags.any)) = [40, 41, 300] := by decide +kernel
  rw [← h, State.select_eq]
  simp [allIndices_eq_finRange, any_lease]

/-- Witness of AcknowledgeTakesEntriesInTurn: section 7.9, step 5, and an entry whose flags byte is 16. -/
theorem witness_AcknowledgeTakesEntriesInTurn :
    ∀ b ∈ [[3, 0x28, 0x02, 4, 0x29, 0x00, 1, 0x2C, 0x0D, 12], [1, 0x29, 0x00, 15], [1, 0x29, 0x00, 16]],
      let s := ask (.client 3) .acknowledge b (notices (.held ⟨15, 60000⟩ 71080 false) NoticeFlags.none)
      s.serves .acknowledge (.client 3) (request .acknowledge 1 b) ∧ RecordsOk s ∧
        ((∃ e ∈ readAcknowledge b, 16 ≤ e.flags.toNat) ↔ b = [1, 0x29, 0x00, 16]) := by
  intro b hb
  simp only [List.mem_cons, List.not_mem_nil, or_false] at hb
  rcases hb with rfl | rfl | rfl <;>
    exact ⟨serves_of_check (by decide +kernel), recordsOk_of_check (by decide +kernel), by decide +kernel⟩

/-- Witness of AckAlertsAndAttention: no alert named, and all; a port that is IN_RESET, and one that is OFFLINE. -/
theorem witness_AckAlertsAndAttention :
    (∀ b ∈ [[0], [0xFF]],
      servesCheck (ask .management .ackAlerts b stalled) .ackAlerts .management (request .ackAlerts 0 b) = true) ∧
      ExchangesOk (after (.portRstRise 4) stalled) ∧
      (after (.portRstRise 4) stalled).clients[4].session = .inReset ∧
      (after (.portRstRise 4) stalled).clients[0].session ≠ .online :=
  ⟨by decide +kernel, exchangesOk_of_check (by decide +kernel), by decide +kernel, by decide +kernel⟩

/-- R128: P3 of section 7.9 has three flagged records, so its attention output is high while it is ONLINE and low while it is
OFFLINE; P0's is low. -/
theorem test_attention :
    let s := notices (.grace ⟨15, 60000⟩ 70200) ⟨false, false, true, false⟩
    let t := s.modifyClient 3 (fun c => { c with session := .online, epoch := 1 })
    t.attention 3 = true ∧ s.attention 3 = false ∧ t.attention 0 = false := by
  decide +kernel

/-! The directory. -/

/-- The body of a DECLARE with most sharers and a guard line, of resource 0x0701. -/
def declaring (sharers line : Byte) : List Byte :=
  [0x01, 0x07, 3, sharers, 1, 0, 0, 0, 1, 0, 0, 0, 0xFF, 0xFF, 64, line, 0xE8, 3, 0, 0, 0, 0]

/-- A directory of 256 entries. -/
def fullDirectory : State :=
  { running 5 with directory := (List.range 256).map (fun k => { vacant120 true 0 0 with resource := 4096 + k }) }

/-- Witness of DeclareCreatesEntry: every field at the end of its range; 17 sharers; the id declared; 256 entries; the line
bound. -/
theorem witness_DeclareCreatesEntry :
    (∀ b ∈ [declaring 16 15, declaring 17 4, declaring 1 4],
      servesCheck (ask .management .declare b (running 5)) .declare .management (request .declare 0 b) = true) ∧
      servesCheck (ask .management .declare (declaring 1 4) fullDirectory) .declare .management
        (request .declare 0 (declaring 1 4)) = true ∧
      DeclareArgs.read (declaring 16 15) = ⟨0x701, true, 16, 1, 1, 65535, 64, some 15, 1000, none⟩ ∧
      (DeclareArgs.read (declaring 17 4)).maxSharers = 17 ∧
      DeclareArgs.read (declaring 1 4) = ⟨0x701, true, 1, 1, 1, 65535, 64, some 4, 1000, none⟩ ∧
      (running 5).entry 0x701 = none ∧ fullDirectory.entry 0x701 = none ∧ fullDirectory.directory.length = 256 ∧
      (declared { vacant120 true 0 0 with resource := 0x701 } (clearLine 0x701 0) (running 5)).entry 0x701 ≠ none ∧
      (declared (vacant120 true 0 0) (clearLine 0x120 0) (running 5)).entry 0x701 = none ∧
      ((declared (vacant120 true 0 0) (clearLine 0x120 0) (running 5)).directory.map
        (fun e => e.settings.guardLine.map Fin.val)) = [some 4] := by
  decide +kernel

/-- The body of an AMEND of resource 0x0120 with presence flags, most sharers, a guard action and a guard line. -/
def amending (flags sharers action line : Byte) : List Byte :=
  [0x20, 0x01, flags, 0, sharers, 0, 0, 0, 0, 0, 0, 0, 0, 0, 0, 0, 0, 0, action, line]

/-- Resources 0x0120 with line 4 and 0x0121 with line 6. -/
def twoEntries : State :=
  declared { vacant120 true 0 0 with resource := 0x121, settings := { settings120 with guardLine := some 6 } }
    (clearLine 0x121 0) (oneVacant true 7)

/-- Witness of AmendChangesSettings: no entry; 17 sharers and an unlisted guard action; fewer sharers than hold the resource and
a line changed while it is held; a line bound elsewhere; and sharers raised, the line removed, kept and changed. -/
theorem witness_AmendChangesSettings :
    (∀ s ∈ [running 5, oneShared 0 3, twoEntries],
      ∀ b ∈ [amending 2 17 0 0, amending 2 16 0 0, amending 2 1 0 0, amending 128 0 2 0, amending 128 0 1 0,
          amending 128 0 0 6, amending 128 0 0 4, amending 128 0 0 5],
        servesCheck (ask .management .amend b s) .amend .management (request .amend 0 b) = true) ∧
      (running 5).entry 0x120 = none ∧ (oneShared 0 3).entry 0x120 = some (shared120Entry 3) ∧
      twoEntries.entry 0x120 = some (vacant120 true 7 3) ∧
      (AmendArgs.read (amending 2 17 0 0)).maxSharers = some 17 ∧ (AmendArgs.read (amending 128 0 2 0)).guard = some none ∧
      (AmendArgs.read (amending 2 16 0 0)) = ⟨0x120, none, some 16, none, none, none, none, none, none⟩ ∧
      (AmendArgs.read (amending 128 0 1 0)) = ⟨0x120, none, none, none, none, none, none, none, some (some .remove)⟩ ∧
      (AmendArgs.read (amending 128 0 0 6)).guard = some (some (.bind 6)) ∧
      (AmendArgs.read (amending 128 0 0 5)).guard = some (some (.bind 5)) := by
  decide +kernel

theorem witness_AmendChangesSettings_guards : GuardsOk (oneShared 0 3) ∧ GuardsOk twoEntries :=
  ⟨guardsOk_of_check (by decide +kernel), guardsOk_of_check (by decide +kernel)⟩

/-- Witness of AmendChangesSettings, IN_USE: the holders of section 2.8 after step 1, and max sharers 2. -/
theorem witness_AmendChangesSettings_inUse :
    let b : List Byte := [0x10, 0x03, 2, 0, 2, 0, 0, 0, 0, 0, 0, 0, 0, 0, 0, 0, 0, 0, 0, 0]
    let s := ask .management .amend b (sharers 3 42 [⟨7, 1⟩, ⟨19, 0⟩, ⟨55, 3⟩] [⟨56, 3⟩, ⟨60, 0⟩, ⟨61, 0⟩]
      (.held ⟨42, 90000⟩ 90100 false) (.waiting none))
    s.serves .amend .management (request .amend 0 b) ∧ GuardsOk s ∧
      (s.entry 0x310).map (fun e => (decide (2 < e.settings.maxSharers), decide (2 < e.holders.length))) =
        some (true, true) :=
  ⟨serves_of_check (by decide +kernel), guardsOk_of_check (by decide +kernel), by decide +kernel⟩

/-- Witness of RetireClosesAllAndRemoves: an id that no entry carries, and resource 0x0A00 of section 10.8. -/
theorem witness_RetireClosesAllAndRemoves :
    let s := ask .management .retire [0x00, 0x0A] stalled
    let e : Entry := ⟨0xA00, .exclusive, ⟨false, 1, 1, 50000, 500, 4, some 7, 20⟩, 30, [⟨90, 5⟩], none, [⟨91, 0⟩]⟩
    s.serves .retire .management (request .retire 0 [0x00, 0x0A]) ∧ s.entry (field [0x00, 0x0A] 0 2) = some e ∧
      EntryOk s e ∧
      (ask .management .retire [0x01, 0x0A] stalled).serves .retire .management (request .retire 0 [0x01, 0x0A]) ∧
      (ask .management .retire [0x01, 0x0A] stalled).entry (field [0x01, 0x0A] 0 2) = none :=
  ⟨serves_of_check (by decide +kernel), by decide +kernel, entryOk_of_check (by decide +kernel),
    serves_of_check (by decide +kernel), by decide +kernel⟩

/-! Administration. -/

/-- Witness of SetQuotaBoundsLiveCount: port 8; quotas 0 and 257; P3 with 2 live records at quotas 1 and 2; and quota 256. -/
theorem witness_SetQuotaBoundsLiveCount :
    (∀ b ∈ [[8, 1, 0], [3, 0, 0], [3, 1, 1], [3, 1, 0], [3, 2, 0], [3, 0, 1]],
      servesCheck (ask .management .setQuota b (notices (.held ⟨15, 60000⟩ 71080 false) NoticeFlags.none)) .setQuota
        .management (request .setQuota 0 b) = true) ∧
      field [3, 0, 0] 1 2 = 0 ∧ field [3, 1, 1] 1 2 = 257 ∧ field [3, 0, 1] 1 2 = 256 ∧
      (ask .management .setQuota [3, 2, 0] (notices (.held ⟨15, 60000⟩ 71080 false) NoticeFlags.none)).ports[3].live =
        2 := by
  decide +kernel

/-- Witness of RevokeClosesRecord: a handle that does not resolve, a CLOSED record, a holder, the WAITING head. -/
theorem witness_RevokeClosesRecord :
    let e : Entry := ⟨0xA00, .exclusive, ⟨false, 1, 1, 50000, 500, 4, some 7, 20⟩, 30, [⟨90, 5⟩], none, [⟨91, 0⟩]⟩
    (∀ b ∈ [[0x5A, 0x0A], [91, 0], [0x5A, 0x0C]],
      (ask .management .revoke b stalled).serves .revoke .management (request .revoke 0 b)) ∧
      (ask .management .revoke [0x5A, 0x0C] stalled).resolve .management (readHandle [0x5A, 0x0C]) = none ∧
      ((ask .management .revoke [0x5A, 0x0A] stalled).resolve .management (readHandle [0x5A, 0x0A])).map
        (fun l => (l.resource, l.phase.isLive)) = some (0xA00, true) ∧
      ((ask .management .revoke [91, 0] stalled).resolve .management (readHandle [91, 0])).map
        (fun l => (l.resource, l.phase.isLive)) = some (0xA00, true) ∧
      (ask .management .revoke [91, 0] stalled).entry 0xA00 = some e ∧
      EntryOk (ask .management .revoke [91, 0] stalled) e ∧ EntryOk (ask .management .revoke [0x5A, 0x0A] stalled) e ∧
      (ask .management .revoke [0x5A, 0x0A] revoked).serves .revoke .management (request .revoke 0 [0x5A, 0x0A]) ∧
      ((ask .management .revoke [0x5A, 0x0A] revoked).resolve .management (readHandle [0x5A, 0x0A])).map Lease.phase =
        some (.closed (some ⟨30, 100000⟩) .revoked) := by
  refine ⟨fun b hb => ?_, by decide +kernel, by decide +kernel, by decide +kernel, by decide +kernel,
    entryOk_of_check (by decide +kernel), entryOk_of_check (by decide +kernel), serves_of_check (by decide +kernel),
    by decide +kernel⟩
  simp only [List.mem_cons, List.not_mem_nil, or_false] at hb
  rcases hb with rfl | rfl | rfl <;> exact serves_of_check (by decide +kernel)

/-- Witness of PortResetEndsSession: ports 4, which holds a lease, 7 and 8. -/
theorem witness_PortResetEndsSession :
    (∀ b ∈ [[4], [7], [8]],
      servesCheck (ask .management .portReset b stalled) .portReset .management (request .portReset 0 b) = true) ∧
      TableOk (ask .management .portReset [4] stalled) :=
  ⟨by decide +kernel, tableOk_of_check (by decide +kernel)⟩

/-- Witness of ClearAllEmptiesTable: section 10.8 before step 1. -/
theorem witness_ClearAllEmptiesTable :
    (ask .management .clearAll [] stalled).serves .clearAll .management (request .clearAll 0 []) :=
  serves_of_check (by decide +kernel)

/-! The clock requests. -/

/-- Witness of ClockSetupSetsDivisorAndTrim: divisors 0, 1, 4096 and 4097, trims 255, 256, -255 and -256, divisor 1 with trim 1,
and a RUNNING clock whose divisor is 1536. -/
theorem witness_ClockSetupSetsDivisorAndTrim :
    (∀ b ∈ [[0, 0, 0, 0], [1, 0, 0, 0], [0, 0x10, 0xFF, 0], [1, 0x10, 0, 0], [0, 0x10, 0, 1], [0, 0x10, 0x01, 0xFF],
        [0, 0x10, 0x00, 0xFF], [1, 0, 1, 0], [0, 6, 0, 0]],
      servesCheck (ask .management .clockSetup b (running 5)) .clockSetup .management (request .clockSetup 0 b) = true) ∧
      field [0, 0x10, 0xFF, 0] 0 2 = 4096 ∧ field [1, 0x10, 0, 0] 0 2 = 4097 ∧
      (BitVec.ofNat 16 (field [0, 0x10, 0x01, 0xFF] 2 2)).toInt = -255 ∧
      (BitVec.ofNat 16 (field [0, 0x10, 0x00, 0xFF] 2 2)).toInt = -256 ∧
      (BitVec.ofNat 16 (field [0, 0x10, 0, 1] 2 2)).toInt = 256 ∧
      (BitVec.ofNat 16 (field [0, 0x10, 0xFF, 0] 2 2)).toInt = 255 ∧ field [0, 6, 0, 0] 0 2 = 1536 ∧
      (running 5).clock.divisor = 1536 ∧ (running 5).clock.state = .running ∧ State.reset.clock.state = .stopped := by
  decide +kernel

/-- A clock that is HELD, with a discipline. -/
def heldAt (now : Nat) (d : SyncDiscipline) : State :=
  let s := running now
  { s with clock := { s.clock with state := .held }, sync := d }

/-- Witness of ClockRequestsChangeState: each request in each clock state, the discipline OFF and not. -/
theorem witness_ClockRequestsChangeState :
    (∀ s ∈ [State.reset, running 5, heldAt 5 SyncDiscipline.reset, heldAt 5 ⟨.tracking, some 3, 0, 1, none⟩],
      ∀ k ∈ [Kind.clockStart, .clockHold, .clockResume],
        servesCheck (ask .management k [] s) k .management (request k 0 []) = true) ∧
      State.reset.clock.state = .stopped ∧ (running 5).clock.state = .running ∧
      (heldAt 5 SyncDiscipline.reset).clock.state = .held ∧ (heldAt 5 SyncDiscipline.reset).sync.state = .off ∧
      (heldAt 5 SyncDiscipline.reset).sync.origin = none := by
  decide +kernel

/-- Witness of DisciplineRestarts: settings 0, 1 and 2. -/
theorem witness_DisciplineRestarts :
    ∀ b ∈ [[0], [1], [2]],
      servesCheck (ask .management .discipline b (running 5)) .discipline .management (request .discipline 0 b) = true := by
  decide +kernel

/-! Resets and expiry. -/

/-- Witness of ResetLineEndsSession: a low line with a SUBMIT under way and with an abandoned one, a high line, a reset item of
port 4 and none. -/
theorem witness_ResetLineEndsSession :
    (submitting (.client 0) (running 5)).clients[0].resetLine = false ∧
      ((submitting (.client 0) (running 5)).clients[0].link.transaction.map Transaction.abandoned) = some false ∧
      ((after .nresetRise (after .nresetFall (submitting (.client 0) (running 5)))).clients[0].link.transaction.map
        Transaction.abandoned) = some true ∧
      (after .nresetRise (after .nresetFall (submitting (.client 0) (running 5)))).nReset = true ∧
      ((after (.portRstRise 0) (submitting (.client 0) (running 5))).clients[0].resetLine = true ∧
        ((after (.portRstRise 0) (submitting (.client 0) (running 5))).clients[0].link.transaction.map
          Transaction.abandoned) = some false) ∧
      (after (.portRstRise 4) (running 5)).clients[4].resetLine = true ∧
      (after (.portRstRise 4) (running 5)).clients[4].resetItem = true ∧
      (∀ q : Port, q < 4 → (after (.portRstRise 4) (running 5)).clients[q].resetItem = false) ∧
      (∀ q : Port, (running 5).clients[q].resetItem = false) := by
  decide +kernel

/-- Witness of ResetLineEndsSession: the reset item of P4 of section 10.8, whose record is freed. -/
theorem witness_ResetLineEndsSession_item :
    let s := after (.portRstRise 4) stalled
    TableOk s ∧ s.nReset = true ∧ s.clients[4].resetItem = true ∧ (∀ q : Port, q < 4 → s.clients[q].resetItem = false) :=
  ⟨tableOk_of_check (by decide +kernel), by decide +kernel, by decide +kernel, by decide +kernel⟩

/-- Witness of DeviceResetSetsEveryBlock: each command in a level of nRESET that suits it, a transaction under way. -/
theorem witness_DeviceResetSetsEveryBlock :
    (submitting .management stalled).nReset = true ∧ (after .nresetFall stalled).nReset = false ∧
      ((submitting .management stalled).link .management).transaction =
        some ⟨.submit, .takeFrame, [⟨[0x6E], 0xFF⟩], false⟩ ∧
      (((after .nresetFall (submitting .management stalled)).link .management).transaction.map Transaction.abandoned) =
        some true := by
  decide +kernel

theorem links_of_none {s : State} (h : ∀ p : Port, s.clients[p].link.transaction = none)
    (hm : s.management.link.transaction = none) : LinksOk s := by
  intro l t ht
  cases l with
  | client p =>
    rw [show (s.link (.client p)).transaction = none from h p] at ht
    cases ht
  | management =>
    rw [show (s.link .management).transaction = none from hm] at ht
    cases ht

/-- Witness of DeviceResetHoldsEveryBlock: a SYNC edge in device reset, and an empty queue there. -/
theorem witness_DeviceResetHoldsEveryBlock :
    let s := after .nresetFall (running 5)
    LinksOk s ∧ s.nReset = false ∧ exec (.syncEdge 3) s = .next (after (.syncEdge 3) s) ∧ s.pending = [] :=
  ⟨links_of_none (by decide +kernel) (by decide +kernel), by decide +kernel, rfl, by decide +kernel⟩

/-- Record 3 of P2 in a phase on resource 0x0210 with a grace, its item offered. -/
def expiring (now grace : Nat) (phase : LeasePhase) : State :=
  { filed 3 0 (lease 2 0x210 .shared 100 phase)
      (declared ⟨0x210, if phase.isHolder then .shared else .vacant, ⟨true, 2, 1, 100, grace, 1, none, 0⟩, 9,
        if phase.isHolder then [⟨3, 0⟩] else [], if phase.upgradePending then some ⟨3, 0⟩ else none,
        if phase.isHolder then [] else [⟨3, 0⟩]⟩ (clearLine 0 0) (running now)) with offer := some 3 }

/-- The hypotheses of ExpiryItemActsOnRecord hold of record 3 in a phase whose deadline is 50,000, at that count, and its item
is void one tick before. -/
def expiringCheck (grace : Nat) (phase : LeasePhase) : Bool :=
  (expiring 50000 grace phase).granted == some .expiryUnit && (expiring 50000 grace phase).deadlines == [⟨50000, 3⟩]
    && (expiring 49999 grace phase).granted == some .expiryUnit
    && (expiring 49999 grace phase).deadlines == [⟨50000, 3⟩]
    && (expiring 50000 grace phase).lease 3 == some (lease 2 0x210 .shared 100 phase)
    && ((expiring 50000 grace phase).entry 0x210).any (fun e =>
      entryCheck (expiring 50000 grace phase) e && (!phase.isHolder || e.holders.contains ⟨3, 0⟩))

/-- Witness of ExpiryItemActsOnRecord: a WAITING record, a HELD one without grace, a GRACE one, and HELD ones with a grace of
one tick, an upgrade pending or not. -/
theorem witness_ExpiryItemActsOnRecord :
    expiringCheck 0 (.waiting (some 50000)) = true ∧ expiringCheck 0 (.held ⟨9, 40000⟩ 50000 false) = true ∧
      expiringCheck 1 (.grace ⟨9, 40000⟩ 50000) = true ∧ expiringCheck 1 (.held ⟨9, 40000⟩ 50000 false) = true ∧
      expiringCheck 1 (.held ⟨9, 40000⟩ 50000 true) = true :=
  ⟨by decide +kernel, by decide +kernel, by decide +kernel, by decide +kernel, by decide +kernel⟩

/-! Invariants. -/

/-- Resource 0x0120 SHARED by record 5 of P0, which is ONLINE, P1 about to claim it, and the claim in front of the queue. -/
def claiming : State :=
  { ask (.client 1) .claim (claim120 1 100 1)
      ((oneShared 0 3).modifyClient 0 (fun c => { c with session := .online, epoch := 1 })) with pending := [.claim] }

/-- The state that the front of the queue leaves. -/
def claimed : State := after .claim { claiming with pending := [] }

theorem claiming_pending : claiming.pending = [.claim] := rfl

theorem exec_claim (s : State) : exec .claim s = .next (after .claim s) := rfl

theorem claiming_step : step claiming = .next claimed := by
  simp only [step, claiming_pending]
  exact exec_claim _

theorem lists_of_records {s t : State} (hr : t.records = s.records) (hf : t.freePool = s.freePool)
    (hc : t.closedOrder = s.closedOrder) (hd : t.deadlines = s.deadlines) (h : PoolOk s ∧ ClosedOk s ∧ DeadlinesOk s) :
    PoolOk t ∧ ClosedOk t ∧ DeadlinesOk t := by
  simp only [PoolOk, ClosedOk, DeadlinesOk, State.lease, hr, hf, hc, hd] at h ⊢
  exact h

/-- The state of which `claiming` is made by one write of the Lease Store. -/
def beforeFiling : State :=
  let t := declared (shared120Entry 3) (clearLine 0x120 0) (running 20030)
  { t with records := t.records.set (5 : Index) ⟨0, none⟩ }

/-- The lease of record 5. -/
def recordFive : Lease := lease 0 0x120 .shared 2000 (.held ⟨8, 20000⟩ 22000 false)

theorem free_records : beforeFiling.records = Vector.replicate 512 ⟨0, none⟩ := by
  refine Vector.ext (fun i hi => ?_)
  simp only [beforeFiling, declared, running, State.reset, State.modifyLineOf_records, Vector.getElem_set,
    Vector.getElem_replicate]
  split <;> rfl

theorem oneShared_eq : oneShared 0 3 = beforeFiling.putLease 5 (some recordFive) := by
  unfold oneShared filed beforeFiling recordFive
  rfl

theorem claiming_lists : PoolOk claiming ∧ ClosedOk claiming ∧ DeadlinesOk claiming := by
  have h := storeLists_of_free (s := beforeFiling) free_records
    (by simp [beforeFiling, declared, running, State.reset]) (by simp [beforeFiling, declared, running, State.reset])
    (by simp [beforeFiling, declared, running, State.reset])
  have hs := oneShared_eq
  exact lists_of_records (s := beforeFiling.putLease 5 (some recordFive)) (by simp [claiming, ask, hs])
    (by simp [claiming, ask, hs]) (by simp [claiming, ask, hs]) (by simp [claiming, ask, hs])
    ⟨State.putLease_poolOk 5 _ h.1, State.putLease_closedOk 5 _ h.2.1, State.putLease_deadlinesOk 5 _ h.2.2⟩

/-- Witness of StepKeepsStoreLists: a claim with a deadline is queued. -/
theorem witness_StepKeepsStoreLists :
    (PoolOk claiming ∧ ClosedOk claiming ∧ DeadlinesOk claiming ∧ CountsOk claiming) ∧ step claiming = .next claimed ∧
      claimed.deadlines = [⟨20031, 0⟩, ⟨22000, 5⟩] :=
  ⟨⟨claiming_lists.1, claiming_lists.2.1, claiming_lists.2.2, countsOk_of_check (by decide +kernel)⟩, claiming_step,
    by decide +kernel⟩

/-- Witness of StoppedOnlyBeforeClockStart: CLOCK_START of the clock after device reset, and device reset of a RUNNING one. -/
theorem witness_StoppedOnlyBeforeClockStart :
    let s := ask .management .clockStart [] State.reset
    StoppedOk s ∧ exec .clockStart s = .next (after .clockStart s) ∧ s.clock.state = .stopped ∧
      (after .clockStart s).clock.state ≠ .stopped ∧ StoppedOk (running 5) ∧
      exec .nresetFall (running 5) = .next (after .nresetFall (running 5)) ∧ (running 5).clock.state ≠ .stopped ∧
      (after .nresetFall (running 5)).clock.state = .stopped := by
  refine ⟨fun _ => ⟨by decide +kernel, fun i => ?_, by decide +kernel, by decide +kernel⟩, rfl, by decide +kernel,
    by decide +kernel, fun h => ?_, rfl, by decide +kernel, by decide +kernel⟩
  · simp [State.lease, ask, State.setExchange, State.reset]
  · cases h

theorem claiming_links : LinksOk claiming := links_of_none (by decide +kernel) (by decide +kernel)

/-- Witness of StepKeepsSessions. -/
theorem witness_StepKeepsSessions :
    SessionsOk claiming ∧ LinksOk claiming ∧ ExchangesOk claiming ∧ step claiming = .next claimed :=
  ⟨sessionsOk_of_check (by decide +kernel), claiming_links, exchangesOk_of_check (by decide +kernel), claiming_step⟩

/-- A hold is requested, and a tick end is in front of the queue. -/
def holdQueued : State := { after .clockHold (ask .management .clockHold [] (running 5)) with pending := [.tickEnd] }

theorem holdQueued_pending : holdQueued.pending = [.tickEnd] := rfl

/-- Witness of StepKeepsSessions: a tick end that completes a hold. -/
theorem witness_StepKeepsSessions_hold :
    SessionsOk holdQueued ∧ LinksOk holdQueued ∧ ExchangesOk holdQueued ∧ holdQueued.management.held ≠ none ∧
      step holdQueued = .next (after .tickEnd { holdQueued with pending := [] }) := by
  refine ⟨sessionsOk_of_check (by decide +kernel), links_of_none (by decide +kernel) (by decide +kernel),
    exchangesOk_of_check (by decide +kernel), by decide +kernel, ?_⟩
  simp only [step, holdQueued_pending]
  exact exec_tickEnd _

/-- Witness of StepKeepsGuards. -/
theorem witness_StepKeepsGuards : GuardsOk claiming ∧ step claiming = .next claimed :=
  ⟨guardsOk_of_check (by decide +kernel), claiming_step⟩

/-- Witness of StepKeepsRanges. -/
theorem witness_StepKeepsRanges :
    DirectoryOk claiming ∧ ClockOk claiming ∧ SyncOk claiming ∧ RecordsOk claiming ∧ step claiming = .next claimed := by
  have h : claiming.directory = [shared120Entry 3] := by decide +kernel
  have hc : claiming.clock = (running 20030).clock := by decide +kernel
  have hs : claiming.sync = SyncDiscipline.reset := by decide +kernel
  refine ⟨⟨by decide +kernel, by simp [h], ?_⟩, ?_, ?_, recordsOk_of_check (by decide +kernel), claiming_step⟩
  · simp [h, shared120Entry, settings120, Settings.inRange, Config.maxTerm, Config.tokenLimit]
  · simp [ClockOk, hc, running, LeaseClock.reset, Config.maxCount, Config.resetDivisor, Config.trimPeriod]
  · simp [SyncOk, hs, SyncDiscipline.reset]

/-- Section 8.6, event 12, in front of the queue: a hit in HOLDOVER with one hit counted. -/
def hitQueued : State :=
  { syncing 13236 12 ⟨.holdover, some 5237, 1, 0, some ⟨13237, 5⟩⟩ with pending := [.syncEdge 12] }

theorem hitQueued_pending : hitQueued.pending = [.syncEdge 12] := rfl

theorem exec_syncEdge (k : Fin 16) (s : State) : exec (.syncEdge k) s = .next (after (.syncEdge k) s) := rfl

/-- Witness of StepKeepsRanges: a hit that makes the discipline TRACKING. -/
theorem witness_StepKeepsRanges_sync :
    DirectoryOk hitQueued ∧ ClockOk hitQueued ∧ SyncOk hitQueued ∧ RecordsOk hitQueued ∧
      step hitQueued = .next (after (.syncEdge 12) { hitQueued with pending := [] }) := by
  refine ⟨?_, ?_, ?_, recordsOk_of_check (by decide +kernel), ?_⟩
  · simp [DirectoryOk, hitQueued, syncing, running, State.reset]
  · simp [ClockOk, hitQueued, syncing, running, LeaseClock.reset, Config.maxCount, Config.resetDivisor,
      Config.trimPeriod]
  · simp [SyncOk, hitQueued, syncing, running, LeaseClock.reset, Config.maxCount]
  · simp only [step, hitQueued_pending]
    exact exec_syncEdge _ _

/-- Witness of StepKeepsLeaseTable. -/
theorem witness_StepKeepsLeaseTable : LeaseTableOk claiming ∧ DirectoryOk claiming ∧ step claiming = .next claimed := by
  refine ⟨⟨claiming_lists.1, claiming_lists.2.1, tableOk_of_check (by decide +kernel), fun e he _ => ?_⟩,
    witness_StepKeepsRanges.1, claiming_step⟩
  have h : claiming.directory = [shared120Entry 3] := by decide +kernel
  rw [h] at he
  simp only [List.mem_singleton] at he
  subst he
  exact headBlocked_of_check (by decide +kernel)

theorem vacant_lists : let s := claims (claim120 0 100 0) (oneVacant true 7)
    PoolOk s ∧ ClosedOk s ∧ DeadlinesOk s :=
  storeLists_of_free (by simp [claims, ask, oneVacant, declared, running, State.reset])
    (by simp [claims, ask, oneVacant, declared, running, State.reset])
    (by simp [claims, ask, oneVacant, declared, running, State.reset])
    (by simp [claims, ask, oneVacant, declared, running, State.reset])

/-- Witness of CountersNeverFall: the claim of section 3.9, step 1, whose holder has token 8 above the counter 7. -/
theorem witness_CountersNeverFall :
    let s := claims (claim120 0 100 0) (oneVacant true 7)
    LeaseTableOk s ∧ exec .claim s = .next (after .claim s) ∧ s.entry 0x120 = some (vacant120 true 7 3) ∧
      (vacant120 true 7 3).counter ≤ Config.tokenLimit ∧
      ((after .claim s).entry 0x120).map (fun e => (e.counter, e.holders)) = some (8, [⟨0, 0⟩]) ∧
      (after .claim s).tokenOf ⟨0, 0⟩ = some 8 := by
  refine ⟨⟨vacant_lists.1, vacant_lists.2.1, tableOk_of_check (by decide +kernel), fun e he _ => ?_⟩, rfl,
    by decide +kernel, by decide +kernel, by decide +kernel, by decide +kernel⟩
  have h : (claims (claim120 0 100 0) (oneVacant true 7)).directory = [vacant120 true 7 3] := by decide +kernel
  rw [h] at he
  simp only [List.mem_singleton] at he
  subst he
  exact headBlocked_of_check (by decide +kernel)

end Sys2Proof.Tests
end

