-- ==== Sys2Proof/Proofs/LeaseTable.lean ====
section
/-!
PROOF. O58 fails as stated. ACKNOWLEDGE frees the record whose CLOSED flag it clears, and runs no promotion (R126). That the
CLOSED flag is set on CLOSED records only is `FlagsOk` (Table 1-2, R118), a part of `RecordsOk`; neither `LeaseTableOk` nor
`DirectoryOk` says it. So a state that meets the premises may hold a HELD record with that flag: its owner's ACKNOWLEDGE frees
a holder, and the claim behind it stays at the head of a queue that its resource could now grant.
-/
namespace Sys2Proof.Machine

/-! The state: P0 holds resource 0x0120 in EXCLUSIVE mode, and P1 waits for it. -/

/-- P0's HELD record, with the CLOSED flag set. -/
def flaggedHolder : Lease :=
  ⟨0, 0x120, .exclusive, 2000, 0, none, ⟨false, false, false, true⟩, .held ⟨1, 0⟩ 2000 false⟩

/-- P1's claim, which waits without a deadline. -/
def blockedClaim : Lease := ⟨1, 0x120, .exclusive, 2000, 0, none, NoticeFlags.none, .waiting none⟩

/-- The entry of 0x0120, held by record 0 with token 1 and waited for by record 1. -/
def contestedEntry : Entry :=
  ⟨0x120, .exclusive, ⟨true, 2, 100, 5000, 200, 3, none, 0⟩, 1, [⟨0, 0⟩], none, [⟨1, 0⟩]⟩

/-- P0's request to acknowledge the CLOSED flag (bit 3) of record 0. -/
def acknowledgeClosed : Frame := ⟨Kind.acknowledge.code, 1, 7, [1, 0x00, 0x00, 0x08], 0⟩

/-- The two records filed in the Store after device reset, with its lists and counts (R6). -/
def contestedStore : State := (State.reset.putLease 0 (some flaggedHolder)).putLease 1 (some blockedClaim)

/-- The two records with their ports ONLINE and their entry, the request in P0's slot, and the command that executes it at the
front of the queue. -/
def flaggedState : State :=
  { (contestedStore.modifyClient 1 (fun c => { c with session := .online, epoch := 1 })).modifyClient 0 (fun c =>
      { c with session := .online, epoch := 1, exchange := ⟨.pending, some acknowledgeClosed, none, none⟩ }) with
    clock := { LeaseClock.reset with state := .running }
    directory := [contestedEntry]
    pending := [.acknowledge] }

/-- `RecordsOk`, which is not among the premises, excludes this record: Table 1-2 keeps CLOSED off a HELD one. -/
theorem flaggedHolder_not_flagsOk : ¬ FlagsOk flaggedHolder := by simp [FlagsOk, flaggedHolder]

/-! It meets the premises. -/

theorem contestedStore_lists : PoolOk contestedStore ∧ ClosedOk contestedStore := by
  obtain ⟨hpool, hclosed, -⟩ := storeLists_of_free (s := State.reset) (by simp [State.reset])
    (by simp [State.reset]) (by simp [State.reset]) (by simp [State.reset])
  exact ⟨State.putLease_poolOk 1 _ (State.putLease_poolOk 0 _ hpool),
    State.putLease_closedOk 1 _ (State.putLease_closedOk 0 _ hclosed)⟩

/-- The free pool and the closed order are held to the records alone. -/
theorem poolOk_closedOk_of_sameStore {s t : State} (h : SameStore s t) (hs : PoolOk s ∧ ClosedOk s) :
    PoolOk t ∧ ClosedOk t := by
  obtain ⟨hrecords, hpool, hclosed, -⟩ := h
  simpa only [PoolOk, ClosedOk, State.lease_eq_of_records hrecords, hpool, hclosed] using hs

theorem flaggedState_lists : PoolOk flaggedState ∧ ClosedOk flaggedState :=
  poolOk_closedOk_of_sameStore (by simp [SameStore, flaggedState]) contestedStore_lists

theorem mem_flaggedState_directory {e : Entry} (he : e ∈ flaggedState.directory) : e = contestedEntry :=
  List.mem_singleton.mp he

theorem flaggedState_headsOk : HeadsOk flaggedState := by
  intro e he _
  rw [mem_flaggedState_directory he]
  exact headBlocked_of_check (by decide +kernel)

theorem flaggedState_leaseTableOk : LeaseTableOk flaggedState :=
  ⟨flaggedState_lists.1, flaggedState_lists.2, tableOk_of_check (by decide +kernel), flaggedState_headsOk⟩

theorem flaggedState_directoryOk : DirectoryOk flaggedState := by
  refine ⟨by decide, by decide, fun e he => ?_⟩
  rw [mem_flaggedState_directory he]
  simp [contestedEntry, Settings.inRange, Config.maxTerm, Config.tokenLimit]

/-! What the step leaves. -/

/-- The state after the ACKNOWLEDGE item. -/
def acknowledgedState : State :=
  ({ flaggedState with pending := [] } : State).serve .acknowledge (fromClient acknowledgeItem)

theorem step_flaggedState : step flaggedState = .next acknowledgedState := rfl

/-- The holder has left, and the claim behind it still waits. -/
theorem acknowledgedState_directory :
    acknowledgedState.directory = [{ contestedEntry with state := .vacant, holders := [] }] := by
  decide +kernel

theorem acknowledgedState_lease : acknowledgedState.lease 1 = some blockedClaim := by decide +kernel

/-- The VACANT resource can grant the EXCLUSIVE claim at the head of its queue, and its counter is 1. -/
theorem acknowledgedState_not_headsOk : ¬ HeadsOk acknowledgedState := by
  intro hheads
  have hblocked := hheads { contestedEntry with state := .vacant, holders := [] }
    (by rw [acknowledgedState_directory]; exact List.mem_singleton_self _) (by decide)
  have hnoRoom := hblocked ⟨1, 0⟩ blockedClaim rfl acknowledgedState_lease
  exact absurd hnoRoom (by decide)

/-- Refutes O58: from `flaggedState`, where a HELD record has the CLOSED flag, ACKNOWLEDGE frees the EXCLUSIVE holder without
promotion, and the head of the wait queue is then one that its VACANT resource can grant. -/
theorem not_stepKeepsLeaseTable : ¬ Obligations.StepKeepsLeaseTable := by
  unfold Obligations.StepKeepsLeaseTable
  intro hkeeps
  obtain ⟨-, -, -, hheads⟩ :=
    hkeeps flaggedState acknowledgedState flaggedState_leaseTableOk flaggedState_directoryOk step_flaggedState
  exact acknowledgedState_not_headsOk hheads

end Sys2Proof.Machine
end

/-!
PROOF. O54: the clock is STOPPED only from device reset to CLOCK-START, and meanwhile there is no record, deadline or offer
(R101).
The key fact is `exec_stopped_cases`: every command keeps STOPPED as it is, or is CLOCK-START, or is device reset. Most
commands keep it because an operation on a record needs a record, and there is none while the clock is STOPPED.
-/
namespace Sys2Proof.Machine

/-- From `s` to `t` the clock neither leaves nor enters STOPPED, and what R101 says of STOPPED is kept. -/
def KeepsStopped (s t : State) : Prop :=
  (t.clock.state = .stopped ↔ s.clock.state = .stopped) ∧ (StoppedOk s → StoppedOk t)

/-! Why a step keeps STOPPED. -/

theorem KeepsStopped.refl (s : State) : KeepsStopped s s := ⟨Iff.rfl, id⟩

theorem KeepsStopped.trans {s u t : State} (h1 : KeepsStopped s u) (h2 : KeepsStopped u t) : KeepsStopped s t :=
  ⟨h2.1.trans h1.1, h2.2 ∘ h1.2⟩

/-- `StoppedOk` reads the clock, the records, the deadline list and the offer. -/
theorem KeepsStopped.of_same {s t : State} (hclock : t.clock = s.clock) (hrecords : t.records = s.records)
    (hdeadlines : t.deadlines = s.deadlines) (hoffer : t.offer = s.offer) : KeepsStopped s t := by
  refine ⟨by rw [hclock], fun hs => ?_⟩
  simpa only [StoppedOk, hclock, State.lease_eq_of_records hrecords, hdeadlines, hoffer] using hs

/-- Where the clock is STOPPED neither before nor after, there is nothing to keep. -/
theorem KeepsStopped.of_not_stopped {s t : State} (hs : s.clock.state ≠ .stopped) (ht : t.clock.state ≠ .stopped) :
    KeepsStopped s t :=
  ⟨iff_of_false ht hs, fun _ hstopped => absurd hstopped ht⟩

/-- A step that leaves the clock, and that R101 excludes while the clock is STOPPED. -/
theorem KeepsStopped.of_clock {s t : State} (hclock : t.clock = s.clock)
    (hs : StoppedOk s → s.clock.state ≠ .stopped) : KeepsStopped s t :=
  ⟨by rw [hclock], fun hok hstopped => absurd (hclock ▸ hstopped) (hs hok)⟩

/-- A record that is not FREE excludes STOPPED. -/
theorem KeepsStopped.of_lease {s t : State} {i : Index} {l : Lease} (hl : s.lease i = some l)
    (hclock : t.clock = s.clock) : KeepsStopped s t := by
  refine .of_clock hclock fun hok hstopped => ?_
  obtain ⟨-, hfree, -, -⟩ := hok hstopped
  simp [hfree i] at hl

/-- A handle that resolves names a record that is not FREE (R4). -/
theorem State.lease_of_resolve {s : State} {k : Link} {h : Handle} {l : Lease} (hr : s.resolve k h = some l) :
    s.lease h.index = some l := by
  unfold State.resolve at hr
  split at hr
  · cases hl : s.lease h.index with
    | none => simp [hl] at hr
    | some x => cases k <;> simp_all
  · cases hr

/-- A request on a handle that resolves excludes STOPPED. -/
theorem KeepsStopped.of_resolve {s t : State} {k : Link} {h : Handle} {l : Lease} (hr : s.resolve k h = some l)
    (hclock : t.clock = s.clock) : KeepsStopped s t :=
  .of_lease (State.lease_of_resolve hr) hclock

/-! Operations on records. -/

theorem State.promote_clock (r : Nat) (s : State) : (s.promote r).clock = s.clock := by
  obtain ⟨-, -, ⟨hclock, -⟩, -⟩ := PromotionKeeps.promote r s
  exact hclock

theorem State.freeRecord_clock (s : State) (i : Index) (l : Lease) : (s.freeRecord i l).clock = s.clock :=
  (State.freeRecord_keeps s i l).2.1

theorem State.freeAllOf_clock (p : Port) (s : State) : (s.freeAllOf p).clock = s.clock :=
  (State.freeAllOf_keeps p s).2.1

theorem State.releaseRecord_clock (i : Index) (l : Lease) (s : State) : (s.releaseRecord i l).clock = s.clock :=
  (State.releaseRecord_keeps i l s).2.1

theorem State.closeRecord_clock (i : Index) (l : Lease) (reason : CloseReason) (s : State) :
    (s.closeRecord i l reason).clock = s.clock :=
  (State.closeRecord_keeps i l reason s).2.1

theorem State.makeExclusive_clock (r : Nat) (h : Handle) (l : Lease) (deadline token : Nat) (told : Bool) (s : State) :
    (s.makeExclusive r h l deadline token told).clock = s.clock := by
  simp [State.makeExclusive]

theorem State.promoteWaiters_of_free {s : State} (r fuel : Nat) (hfree : ∀ i, s.lease i = none) :
    s.promoteWaiters r fuel = s := by
  cases fuel with
  | zero => rfl
  | succ fuel =>
    unfold State.promoteWaiters
    split
    · rfl
    · split
      · rfl
      · simp [hfree]

/-- Promotion has nobody to grant to where every record is FREE. -/
theorem State.promote_of_free {s : State} (r : Nat) (hfree : ∀ i, s.lease i = none) : s.promote r = s := by
  unfold State.promote
  split
  · rfl
  · split
    · simp [State.promoteUpgrade, hfree]
    · exact State.promoteWaiters_of_free r _ hfree

theorem KeepsStopped.promote (r : Nat) (s : State) : KeepsStopped s (s.promote r) := by
  by_cases hfree : ∀ i, s.lease i = none
  · rw [State.promote_of_free r hfree]
    exact .refl s
  · obtain ⟨i, hi⟩ := not_forall.mp hfree
    obtain ⟨l, hl⟩ := Option.ne_none_iff_exists'.mp hi
    exact .of_lease hl (State.promote_clock r s)

theorem KeepsStopped.freeAllOf (p : Port) (s : State) : KeepsStopped s (s.freeAllOf p) := by
  cases howned : s.ownedBy p with
  | nil =>
    simp only [State.freeAllOf, howned, List.foldl_nil]
    exact .refl s
  | cons i is =>
    obtain ⟨l, hl, -⟩ := (State.mem_ownedBy s p i).mp (by simp [howned])
    exact .of_lease hl (State.freeAllOf_clock p s)

theorem KeepsStopped.modifyPort (p : Port) (f : PortContext → PortContext) (s : State) :
    KeepsStopped s (s.modifyPort p f) :=
  .of_same rfl rfl rfl rfl

theorem KeepsStopped.setAlerts (a : AlertSet) (s : State) : KeepsStopped s (s.setAlerts a) := .of_same rfl rfl rfl rfl

theorem KeepsStopped.emptyPort (p : Port) (s : State) : KeepsStopped s (s.emptyPort p) :=
  ((KeepsStopped.freeAllOf p s).trans (.modifyPort ..)).trans (.setAlerts ..)

theorem KeepsStopped.retireRecord (s : State) (h : Handle) : KeepsStopped s (s.retireRecord h) := by
  unfold State.retireRecord
  split
  · next l hl => exact .of_lease hl rfl
  · exact .refl s

theorem KeepsStopped.retireRecords (hs : List Handle) (s : State) : KeepsStopped s (hs.foldl State.retireRecord s) := by
  induction hs generalizing s with
  | nil => exact .refl s
  | cons h hs ih => exact (KeepsStopped.retireRecord s h).trans (ih _)

theorem KeepsStopped.acknowledge (p : Port) (e : AckEntry) (s : State) : KeepsStopped s (s.acknowledge p e).2 := by
  unfold State.acknowledge
  split
  · exact .refl s
  · next l hr =>
    dsimp only
    split
    · exact .refl s
    · split
      · exact .of_resolve hr (State.freeRecord_clock ..)
      · exact .of_resolve hr rfl

theorem KeepsStopped.acknowledgeAll (p : Port) (es : List AckEntry) (s : State) :
    KeepsStopped s (s.acknowledgeAll p es).2 := by
  induction es generalizing s with
  | nil => exact .refl s
  | cons e es ih => exact (KeepsStopped.acknowledge p e s).trans (ih _)

/-! Links and reset lines. -/

theorem KeepsStopped.setExchange (l : Link) (x : Exchange) (s : State) : KeepsStopped s (s.setExchange l x) :=
  .of_same (by simp) (by simp) (by simp) (by simp)

theorem KeepsStopped.setLink (l : Link) (x : LinkState) (s : State) : KeepsStopped s (s.setLink l x) :=
  .of_same (by simp) (by simp) (by simp) (by simp)

theorem KeepsStopped.modifyClient (p : Port) (f : ClientInterface → ClientInterface) (s : State) :
    KeepsStopped s (s.modifyClient p f) :=
  .of_same rfl rfl rfl rfl

theorem KeepsStopped.takeFrame (l : Link) (bytes : List Byte) (s : State) : KeepsStopped s (s.takeFrame l bytes) := by
  unfold State.takeFrame
  split
  · exact .setExchange ..
  · split
    · exact .setExchange ..
    · split
      · exact .setExchange ..
      · exact .setExchange ..

theorem KeepsStopped.submit (l : Link) (bytes : List Byte) (clocked : List Nat) (s : State) :
    KeepsStopped s (s.submit l bytes clocked) := by
  unfold State.submit
  split
  · exact .refl s
  · split
    · split
      · exact (KeepsStopped.setLink ..).trans (.takeFrame ..)
      · exact .setLink ..
    · exact .refl s

theorem KeepsStopped.markCollected (l : Link) (s : State) : KeepsStopped s (s.markCollected l) := by
  unfold State.markCollected
  split
  · exact .setExchange ..
  · exact .refl s

theorem KeepsStopped.collect (l : Link) (clocked : List Nat) (s : State) : KeepsStopped s (s.collect l clocked) := by
  unfold State.collect
  split
  · exact .refl s
  · split
    · split
      · exact (KeepsStopped.setLink ..).trans (.markCollected ..)
      · exact .setLink ..
    · exact .refl s

theorem KeepsStopped.ignoreTransaction (l : Link) (clocked : List Nat) (s : State) :
    KeepsStopped s (s.ignoreTransaction l clocked) := by
  unfold State.ignoreTransaction
  split
  · exact .setLink ..
  · split
    · exact .setLink ..
    · exact .refl s

theorem KeepsStopped.commandByte (l : Link) (b : Byte) (selectedInReset : Bool) (s : State) :
    KeepsStopped s (s.commandByte l b selectedInReset) := by
  unfold State.commandByte
  split
  · exact .refl s
  · exact .setLink ..

theorem KeepsStopped.portRstRise (p : Port) (s : State) : KeepsStopped s (s.portRstRise p) := by
  unfold State.portRstRise
  split
  · exact .refl s
  · split
    · exact .modifyClient ..
    · exact .modifyClient ..

theorem KeepsStopped.portRstFall (p : Port) (s : State) : KeepsStopped s (s.portRstFall p) := by
  unfold State.portRstFall
  split
  · exact .refl s
  · split
    · exact .modifyClient ..
    · exact .modifyClient ..

theorem KeepsStopped.resetItem (s : State) : KeepsStopped s s.resetItem := by
  unfold State.resetItem
  split
  · split
    · exact (KeepsStopped.emptyPort ..).trans (.modifyClient ..)
    · exact .refl s
  · exact .refl s

/-! Time: REFCLK and SYNC act only while the clock is RUNNING, and no tick end stops it. -/

theorem State.not_stopped_of_running {s : State} (h : s.running = true) : s.clock.state ≠ .stopped := by
  simp only [State.running, Bool.and_eq_true, beq_iff_eq] at h
  simp [h.2]

theorem State.enterStep_clock_state (k : Nat) (s : State) : (s.enterStep k).clock.state = s.clock.state := by
  rw [(State.enterStep_effect k s).2.1]

theorem State.completeHold_clock (s : State) : s.completeHold.clock = s.clock.hold := (State.answerHold_keeps _).2.1

/-- A tick end leaves the clock HELD where a hold is requested, and else as it was (R136, R143). -/
theorem State.tickEnd_clock_state (s : State) :
    s.tickEnd.clock.state = if s.clock.holdRequested then .held else s.clock.state := by
  obtain ⟨-, hclock, -⟩ := State.closeWindowBefore_keeps Config.stepsPerTick s
  unfold State.tickEnd
  simp only [hclock, LeaseClock.endTick]
  split
  · rw [State.completeHold_clock]
    rfl
  · rfl

theorem State.tickEnd_not_stopped {s : State} (h : s.clock.state ≠ .stopped) : s.tickEnd.clock.state ≠ .stopped := by
  rw [State.tickEnd_clock_state]
  split
  · decide
  · exact h

theorem KeepsStopped.tickEnd {s : State} (h : s.running = true) : KeepsStopped s s.tickEnd :=
  have hs := State.not_stopped_of_running h
  .of_not_stopped hs (State.tickEnd_not_stopped hs)

theorem KeepsStopped.enterStep {s : State} (k : Nat) (h : s.running = true) : KeepsStopped s (s.enterStep k) :=
  have hs := State.not_stopped_of_running h
  .of_not_stopped hs (by rwa [State.enterStep_clock_state])

theorem KeepsStopped.refclk (s : State) : KeepsStopped s s.refclk := by
  unfold State.refclk
  split
  · next hrun =>
    split
    · exact .of_not_stopped (State.not_stopped_of_running hrun) (State.not_stopped_of_running hrun)
    · split
      · exact .enterStep _ hrun
      · exact .tickEnd hrun
  · exact .refl s

theorem State.runTo_clock_state (k : Fin 16) (s : State) : (s.runTo k).clock.state = s.clock.state := by
  unfold State.runTo
  split
  · exact State.enterStep_clock_state ..
  · rfl

theorem State.syncEdgeAt_not_stopped {s : State} (k : Fin 16) (h : s.clock.state ≠ .stopped) :
    (s.syncEdgeAt k).clock.state ≠ .stopped := by
  unfold State.syncEdgeAt
  split
  · exact State.tickEnd_not_stopped h
  · split
    · exact h
    · split
      · rw [State.syncHit_clock]
        exact State.tickEnd_not_stopped h
      · split
        · rwa [State.syncHit_clock]
        · exact h

theorem KeepsStopped.syncEdge (k : Fin 16) (s : State) : KeepsStopped s (s.syncEdge k) := by
  unfold State.syncEdge
  split
  · next hrun =>
    have hs := State.not_stopped_of_running hrun
    split
    · exact .refl s
    · exact .of_not_stopped hs (State.syncEdgeAt_not_stopped k (by rwa [State.runTo_clock_state]))
  · exact .refl s

theorem KeepsStopped.windowMiss (s : State) : KeepsStopped s s.windowMiss := by
  unfold State.windowMiss
  split
  · next hrun =>
    split
    · exact .refl s
    · split
      · split
        · exact .enterStep _ hrun
        · exact .of_same (by simp) (by simp) (by simp) (by simp)
      · exact .refl s
  · exact .refl s

/-! The Expiry Unit. -/

theorem KeepsStopped.expiryOffer (s : State) : KeepsStopped s s.expiryOffer := by
  unfold State.expiryOffer
  split
  · split
    · exact .refl s
    · next x xs hlist =>
      split
      · refine .of_clock rfl fun hok hstopped => ?_
        obtain ⟨-, -, hempty, -⟩ := hok hstopped
        simp [hempty] at hlist
      · exact .refl s
  · exact .refl s

theorem State.expire_clock (i : Index) (l : Lease) (s : State) : (s.expire i l).clock = s.clock := by
  unfold State.expire
  split
  · exact State.closeRecord_clock ..
  · unfold State.endTerm
    split
    · exact State.closeRecord_clock ..
    · split
      · exact State.promote_clock ..
      · rfl
  · exact State.closeRecord_clock ..
  · rfl

theorem State.expiryAct_clock (i : Index) (s : State) : (s.expiryAct i).clock = s.clock := by
  unfold State.expiryAct
  split
  · split
    · exact State.expire_clock ..
    · rfl
  · rfl

theorem KeepsStopped.expiryItem (s : State) : KeepsStopped s s.expiryItem := by
  unfold State.expiryItem
  split
  · next i _ hoffer =>
    refine .of_clock (State.expiryAct_clock ..) fun hok hstopped => ?_
    obtain ⟨-, -, -, hidle⟩ := hok hstopped
    simp [hidle] at hoffer
  all_goals exact .refl s

theorem KeepsStopped.modifyLine (n : LineNo) (f : GuardLine → GuardLine) (s : State) :
    KeepsStopped s (s.modifyLine n f) :=
  .of_same rfl rfl rfl rfl

/-! Request items. -/

theorem KeepsStopped.takeRequest (l : Link) (s : State) : KeepsStopped s (s.takeRequest l) :=
  .of_same (by simp) (by simp) (by simp) (by simp)

theorem KeepsStopped.complete (a : Answer) (l : Link) (f : Frame) (now : Nat) :
    KeepsStopped a.state (a.complete l f now) := by
  unfold Answer.complete
  split
  · exact .refl _
  · split
    · exact .refl _
    · exact .setExchange ..

/-- A request's row keeps STOPPED up to the item it executes, if it executes one: taking, refusing and answering do. -/
theorem KeepsStopped.serve_or_item (s : State) (k : Kind) (item : Link → Frame → State → Answer) :
    KeepsStopped s (s.serve k item) ∨
      ∃ l f, KeepsStopped (item l f (s.takeRequest l)).state (s.serve k item) := by
  unfold State.serve
  split
  · exact .inl (.refl s)
  · next l f _ =>
    split
    · split
      · exact .inl ((KeepsStopped.takeRequest l s).trans (.complete (refuse ..) ..))
      · split
        · exact .inl ((KeepsStopped.takeRequest l s).trans (.complete (refuse ..) ..))
        · exact .inr ⟨l, f, .complete ..⟩
    · exact .inl (.refl s)

/-- An item keeps STOPPED whatever its frame and its state. -/
def ItemKeepsStopped (item : Frame → State → Answer) : Prop := ∀ f s, KeepsStopped s (item f s).state

theorem KeepsStopped.serve {item : Link → Frame → State → Answer} (k : Kind) (s : State)
    (hitem : ∀ l, ItemKeepsStopped (item l)) : KeepsStopped s (s.serve k item) := by
  rcases KeepsStopped.serve_or_item s k item with hkeeps | ⟨l, f, hafter⟩
  · exact hkeeps
  · exact ((KeepsStopped.takeRequest l s).trans (hitem l f _)).trans hafter

theorem KeepsStopped.serveClient {item : Port → Frame → State → Answer} (k : Kind) (s : State)
    (hitem : ∀ p, ItemKeepsStopped (item p)) : KeepsStopped s (s.serve k (fromClient item)) := by
  refine .serve k s fun l => ?_
  cases l with
  | client p => exact hitem p
  | management => exact fun _ u => .refl u

theorem KeepsStopped.serveManagement {item : Frame → State → Answer} (k : Kind) (s : State)
    (hitem : ItemKeepsStopped item) : KeepsStopped s (s.serve k (fromManagement item)) :=
  .serve k s fun _ => hitem

theorem KeepsStopped.serveUnknown (s : State) : KeepsStopped s s.serveUnknown := by
  unfold State.serveUnknown
  split
  · exact .refl s
  · split
    · exact (KeepsStopped.takeRequest ..).trans (.complete (refuse ..) ..)
    · exact .refl s

/-! Sessions and notices. -/

theorem openItem_keepsStopped (p : Port) : ItemKeepsStopped (openItem p) := by
  intro f s
  unfold openItem
  split
  · exact .of_same rfl rfl rfl rfl
  · exact .refl s
  · exact .refl s

theorem leaveItem_keepsStopped (p : Port) : ItemKeepsStopped (leaveItem p) := by
  intro f s
  simp only [leaveItem, answer]
  exact (KeepsStopped.freeAllOf p s).trans (.modifyClient ..)

theorem fetchNoticesItem_keepsStopped (p : Port) : ItemKeepsStopped (fetchNoticesItem p) := by
  intro f s
  unfold fetchNoticesItem
  dsimp only
  split
  · exact .refl s
  · exact .of_same rfl rfl rfl rfl

theorem acknowledgeItem_keepsStopped (p : Port) : ItemKeepsStopped (acknowledgeItem p) := by
  intro f s
  unfold acknowledgeItem
  dsimp only
  split
  · exact .acknowledgeAll ..
  · exact .refl s

theorem ackAlertsItem_keepsStopped : ItemKeepsStopped ackAlertsItem := fun _ _ => .of_same rfl rfl rfl rfl

/-! Claims: R46 refuses every one while the clock is STOPPED. -/

theorem State.allocate_clock {s t : State} {i : Index} (h : s.allocate = some (i, t)) : t.clock = s.clock := by
  unfold State.allocate at h
  split at h
  · cases h
    rfl
  · split at h
    · cases h
      unfold State.reclaim
      split <;> rfl
    · cases h

theorem State.grantClaim_clock (p : Port) (a : ClaimArgs) (m : Mode) (e : Entry) (i : Index) (s : State) :
    (s.grantClaim p a m e i).state.clock = s.clock := by
  simp [State.grantClaim, answer]

theorem State.queueClaim_clock (p : Port) (a : ClaimArgs) (m : Mode) (w : Wait) (e : Entry) (i : Index) (s : State) :
    (s.queueClaim p a m w e i).state.clock = s.clock := rfl

theorem State.settleClaim_clock (p : Port) (a : ClaimArgs) (m : Mode) (w : Wait) (e : Entry) (s : State) :
    (s.settleClaim p a m w e).state.clock = s.clock := by
  unfold State.settleClaim
  split
  · rfl
  · split
    · rfl
    · split
      · rfl
      · split
        · rfl
        · next hallocate =>
          split
          · exact (State.grantClaim_clock ..).trans (State.allocate_clock hallocate)
          · exact (State.queueClaim_clock ..).trans (State.allocate_clock hallocate)

theorem State.checkClaim_clock (p : Port) (a : ClaimArgs) (e : Entry) (s : State) :
    (s.checkClaim p a e).state.clock = s.clock := by
  unfold State.checkClaim
  split
  · split
    · rfl
    · split
      · rfl
      · split
        · rfl
        · exact State.settleClaim_clock ..
  · rfl
  · rfl

theorem claimItem_keepsStopped (p : Port) : ItemKeepsStopped (claimItem p) := by
  intro f s
  unfold claimItem
  dsimp only
  split
  · exact .refl s
  · next hrunning =>
    split
    · exact .refl s
    · split
      · exact .refl s
      · exact .of_clock (State.checkClaim_clock ..) fun _ => hrunning

/-! Renewal, release and conversion. -/

theorem State.renewRecord_clock (h : Handle) (l : Lease) (grant : Grant) (pending late : Bool) (given : Option Nat)
    (s : State) : (s.renewRecord h l grant pending late given).state.clock = s.clock := by
  unfold State.renewRecord
  split <;> rfl

theorem renewItem_keepsStopped (p : Port) : ItemKeepsStopped (renewItem p) := by
  intro f s
  unfold renewItem
  dsimp only
  split
  · exact .refl s
  · split
    · exact .refl s
    · next l hr =>
      split
      · exact .refl s
      · exact .refl s
      · exact .of_resolve hr (State.renewRecord_clock ..)
      · exact .of_resolve hr (State.renewRecord_clock ..)

theorem releaseItem_keepsStopped (p : Port) : ItemKeepsStopped (releaseItem p) := by
  intro f s
  unfold releaseItem
  dsimp only
  split
  · exact .refl s
  · next l hr =>
    split
    · exact .of_resolve hr (State.freeRecord_clock ..)
    · exact .of_resolve hr (State.releaseRecord_clock ..)
    · exact .of_resolve hr (State.releaseRecord_clock ..)
    · exact .of_resolve hr (State.releaseRecord_clock ..)

theorem State.settleUpgrade_clock (h : Handle) (l : Lease) (grant : Grant) (deadline : Nat) (pending allowed : Bool)
    (e : Entry) (s : State) : (s.settleUpgrade h l grant deadline pending allowed e).state.clock = s.clock := by
  unfold State.settleUpgrade
  split
  · rfl
  · split
    · split
      · rfl
      · exact State.makeExclusive_clock ..
    · split
      · rfl
      · split <;> rfl

theorem upgradeItem_keepsStopped (p : Port) : ItemKeepsStopped (upgradeItem p) := by
  intro f s
  unfold upgradeItem
  dsimp only
  split
  · exact .refl s
  · next l hr =>
    split
    · split
      · exact .refl s
      · split
        · exact .refl s
        · split
          · exact .refl s
          · exact .of_resolve hr (State.settleUpgrade_clock ..)
    · exact .refl s
    · exact .refl s
    · exact .refl s

theorem State.settleDowngrade_clock (h : Handle) (l : Lease) (s : State) :
    (s.settleDowngrade h l).state.clock = s.clock := by
  unfold State.settleDowngrade
  split
  · rfl
  · split
    · rfl
    · split
      · rfl
      · exact (State.promote_clock ..).trans (State.restate_clock ..)

theorem downgradeItem_keepsStopped (p : Port) : ItemKeepsStopped (downgradeItem p) := by
  intro f s
  unfold downgradeItem
  dsimp only
  split
  · exact .refl s
  · next l hr =>
    split
    · exact .refl s
    · exact .refl s
    · exact .of_resolve hr (State.settleDowngrade_clock ..)
    · exact .of_resolve hr (State.settleDowngrade_clock ..)

/-! Reports. -/

theorem leaseStatusItem_keepsStopped (l : Link) : ItemKeepsStopped (leaseStatusItem l) := by
  intro f s
  unfold leaseStatusItem
  dsimp only
  split <;> exact .refl s

theorem queryItem_keepsStopped (l : Link) : ItemKeepsStopped (queryItem l) := by
  intro f s
  unfold queryItem
  split <;> exact .refl s

theorem State.classifyToken_state (s : State) (e : Entry) (token : Nat) : (s.classifyToken e token).state = s := by
  unfold State.classifyToken
  split
  · rfl
  · split
    · rfl
    · split <;> rfl

theorem validateItem_keepsStopped (l : Link) : ItemKeepsStopped (validateItem l) := by
  intro f s
  unfold validateItem
  split
  · exact .refl s
  · rw [State.classifyToken_state]
    exact .refl s

theorem portStatusItem_keepsStopped : ItemKeepsStopped portStatusItem := by
  intro f s
  unfold portStatusItem
  split <;> exact .refl s

/-! The directory. -/

theorem declareItem_keepsStopped : ItemKeepsStopped declareItem := by
  intro f s
  unfold declareItem
  dsimp only
  split
  · exact .refl s
  · split
    · exact .refl s
    · split
      · exact .refl s
      · split
        · exact .refl s
        · exact .of_same (State.bindLine_clock ..) (State.bindLine_records ..) (State.bindLine_deadlines ..)
            (State.bindLine_offer ..)

theorem KeepsStopped.rebind (old new : Option LineNo) (r : Nat) (s : State) : KeepsStopped s (s.rebind old new r) := by
  unfold State.rebind
  split
  · exact .refl s
  · exact .of_same (by simp) (by simp) (by simp) (by simp)

theorem KeepsStopped.amend (e : Entry) (t : Settings) (s : State) : KeepsStopped s (s.amend e t) := by
  have hrebound := (KeepsStopped.of_same rfl rfl rfl rfl :
    KeepsStopped s (s.modifyEntry e.resource (fun x => { x with settings := t }))).trans
      (.rebind e.settings.guardLine t.guardLine e.resource _)
  unfold State.amend
  dsimp only
  split
  · exact hrebound.trans (.promote ..)
  · exact hrebound

theorem amendItem_keepsStopped : ItemKeepsStopped amendItem := by
  intro f s
  unfold amendItem
  dsimp only
  split
  · exact .refl s
  · split
    · exact .refl s
    · split
      · exact .refl s
      · split
        · exact .refl s
        · exact .amend ..

theorem KeepsStopped.retire (e : Entry) (s : State) : KeepsStopped s (s.retire e) := by
  refine (KeepsStopped.retireRecords (e.holders ++ e.waiters) s).trans ?_
  obtain ⟨-, -, -, -, hoffer, -⟩ :=
    State.restate_keepsInterfaces ((e.holders ++ e.waiters).foldl State.retireRecord s) e.resource
  exact .of_same (by simp [State.retire]) (by simp [State.retire]) (by simp [State.retire])
    (((State.undeclare_offer ..).trans (State.unbindLine_offer ..)).trans hoffer)

theorem retireItem_keepsStopped : ItemKeepsStopped retireItem := by
  intro f s
  unfold retireItem
  split
  · exact .refl s
  · exact .retire ..

/-! Administration. -/

theorem setQuotaItem_keepsStopped : ItemKeepsStopped setQuotaItem := by
  intro f s
  unfold setQuotaItem
  dsimp only
  split
  · exact .refl s
  · split
    · exact .refl s
    · split
      · exact .refl s
      · exact .of_same rfl rfl rfl rfl

theorem revokeItem_keepsStopped : ItemKeepsStopped revokeItem := by
  intro f s
  unfold revokeItem
  dsimp only
  split
  · exact .refl s
  · next l hr =>
    split
    · exact .refl s
    · exact .of_resolve hr (State.closeRecord_clock ..)
    · exact .of_resolve hr (State.closeRecord_clock ..)
    · exact .of_resolve hr (State.closeRecord_clock ..)

theorem portResetItem_keepsStopped : ItemKeepsStopped portResetItem := by
  intro f s
  unfold portResetItem
  split
  · exact .refl s
  · exact ((KeepsStopped.modifyClient ..).trans (.emptyPort ..)).trans (.modifyClient ..)

/-- CLEAR-ALL leaves every record FREE, no deadline and no offer, and the clock as it is (R178). -/
theorem KeepsStopped.clearAll (s : State) : KeepsStopped s s.clearAll := by
  refine ⟨Iff.rfl, fun hok hstopped => ?_⟩
  obtain ⟨hcount, -⟩ := hok hstopped
  exact ⟨hcount, fun i => by simp [State.lease, State.clearAll, LeaseRecord.cleared], rfl, rfl⟩

/-! The clock requests. -/

theorem clockSetupItem_keepsStopped : ItemKeepsStopped clockSetupItem := by
  intro f s
  unfold clockSetupItem
  dsimp only
  split
  · exact .refl s
  · split
    · exact .refl s
    · exact ⟨Iff.rfl, id⟩

theorem clockHoldItem_keepsStopped : ItemKeepsStopped clockHoldItem := by
  intro f s
  unfold clockHoldItem
  split
  · next hrunning => exact .of_not_stopped (by simp [hrunning]) (by simp [hrunning])
  · exact .refl s

theorem clockResumeItem_keepsStopped : ItemKeepsStopped clockResumeItem := by
  intro f s
  unfold clockResumeItem
  split
  · next hheld => exact .of_not_stopped (by simp [hheld]) (by simp [answer, State.resumeClock, LeaseClock.beginTick])
  · exact .refl s

theorem disciplineItem_keepsStopped : ItemKeepsStopped disciplineItem := by
  intro f s
  unfold disciplineItem
  split
  · exact .refl s
  · exact .of_same rfl rfl rfl rfl

/-- CLOCK-START leaves the clock RUNNING where it is STOPPED, and is refused elsewhere (R141). -/
theorem clockStartItem_keeps_or_starts (f : Frame) (s : State) :
    KeepsStopped s (clockStartItem f s).state ∨ (clockStartItem f s).state.clock.state ≠ .stopped := by
  unfold clockStartItem
  split
  · exact .inr (by simp [answer, State.startClock, LeaseClock.beginTick])
  · exact .inl (.refl s)

theorem serve_clockStart_keeps_or_starts (s : State) :
    KeepsStopped s (s.serve .clockStart (fromManagement clockStartItem)) ∨
      (s.serve .clockStart (fromManagement clockStartItem)).clock.state ≠ .stopped := by
  rcases KeepsStopped.serve_or_item s .clockStart (fromManagement clockStartItem) with hkeeps | ⟨l, f, hafter⟩
  · exact .inl hkeeps
  · rcases clockStartItem_keeps_or_starts f (s.takeRequest l) with hkeeps | hstarted
    · exact .inl (((KeepsStopped.takeRequest l s).trans hkeeps).trans hafter)
    · exact .inr (fun hstopped => hstarted (hafter.1.mp hstopped))

/-! Device reset. -/

/-- The values after device reset are STOPPED ones (R183). -/
theorem deviceReset_stoppedOk (s : State) : s.deviceReset.clock.state = .stopped ∧ StoppedOk s.deviceReset :=
  ⟨rfl, fun _ => ⟨rfl, fun i => by simp [State.lease, State.deviceReset, State.reset], rfl, rfl⟩⟩

theorem KeepsStopped.beginReset (s : State) : KeepsStopped s.deviceReset s.beginReset := .of_same rfl rfl rfl rfl

theorem KeepsStopped.endReset (s : State) : KeepsStopped s.deviceReset s.endReset := .of_same rfl rfl rfl rfl

/-- A state that keeps STOPPED from the values after device reset is itself STOPPED. -/
theorem KeepsStopped.of_deviceReset {s t : State} (h : KeepsStopped s.deviceReset t) :
    t.clock.state = .stopped ∧ StoppedOk t :=
  have hreset := deviceReset_stoppedOk s
  ⟨h.1.mpr hreset.1, h.2 hreset.2⟩

/-! Every command. -/

/-- The commands that bring device reset, or its end. -/
def ResetsDevice (c : Instr) : Prop := c = .nresetFall ∨ c = .nresetRise ∨ ∃ high, c = .powerOn high

/-- What a command from `s` to `t` can do to STOPPED (R101). -/
def StoppedCases (c : Instr) (s t : State) : Prop :=
  KeepsStopped s t ∨ (c = .clockStart ∧ t.clock.state ≠ .stopped) ∨
    (ResetsDevice c ∧ t.clock.state = .stopped ∧ StoppedOk t)

/-- A command that answers a state which keeps STOPPED. -/
theorem StoppedCases.of_keeps {c : Instr} {s t u : State} (hk : KeepsStopped s u)
    (h : (.next u : Host.Outcome State Fault Refusal) = .next t) : StoppedCases c s t := by
  cases h
  exact .inl hk

theorem StoppedCases.of_deviceReset {c : Instr} {s t u : State} (hc : ResetsDevice c)
    (hu : KeepsStopped s.deviceReset u) (h : (.next u : Host.Outcome State Fault Refusal) = .next t) :
    StoppedCases c s t := by
  cases h
  exact .inr (.inr ⟨hc, hu.of_deviceReset⟩)

/-- Every command keeps STOPPED as it is, but CLOCK-START, which leaves it, and device reset, which enters it (R101). -/
theorem exec_stopped_cases {c : Instr} {s t : State} (h : exec c s = .next t) : StoppedCases c s t := by
  cases c with
  | submit l bytes clocked => exact .of_keeps (.submit ..) h
  | collect l clocked => exact .of_keeps (.collect ..) h
  | ignoredTransaction l clocked => exact .of_keeps (.ignoreTransaction ..) h
  | openSession => exact .of_keeps (.serveClient _ s openItem_keepsStopped) h
  | leave => exact .of_keeps (.serveClient _ s leaveItem_keepsStopped) h
  | claim => exact .of_keeps (.serveClient _ s claimItem_keepsStopped) h
  | renew => exact .of_keeps (.serveClient _ s renewItem_keepsStopped) h
  | release => exact .of_keeps (.serveClient _ s releaseItem_keepsStopped) h
  | upgrade => exact .of_keeps (.serveClient _ s upgradeItem_keepsStopped) h
  | downgrade => exact .of_keeps (.serveClient _ s downgradeItem_keepsStopped) h
  | leaseStatus => exact .of_keeps (.serve _ s leaseStatusItem_keepsStopped) h
  | fetchNotices => exact .of_keeps (.serveClient _ s fetchNoticesItem_keepsStopped) h
  | acknowledge => exact .of_keeps (.serveClient _ s acknowledgeItem_keepsStopped) h
  | query => exact .of_keeps (.serve _ s queryItem_keepsStopped) h
  | validate => exact .of_keeps (.serve _ s validateItem_keepsStopped) h
  | declare => exact .of_keeps (.serveManagement _ s declareItem_keepsStopped) h
  | amend => exact .of_keeps (.serveManagement _ s amendItem_keepsStopped) h
  | retire => exact .of_keeps (.serveManagement _ s retireItem_keepsStopped) h
  | revoke => exact .of_keeps (.serveManagement _ s revokeItem_keepsStopped) h
  | setQuota => exact .of_keeps (.serveManagement _ s setQuotaItem_keepsStopped) h
  | portReset => exact .of_keeps (.serveManagement _ s portResetItem_keepsStopped) h
  | clearAll => exact .of_keeps (.serveManagement _ s fun _ u => .clearAll u) h
  | clockSetup => exact .of_keeps (.serveManagement _ s clockSetupItem_keepsStopped) h
  | clockStart =>
    cases h
    rcases serve_clockStart_keeps_or_starts s with hkeeps | hstarted
    · exact .inl hkeeps
    · exact .inr (.inl ⟨rfl, hstarted⟩)
  | clockHold => exact .of_keeps (.serveManagement _ s clockHoldItem_keepsStopped) h
  | clockResume => exact .of_keeps (.serveManagement _ s clockResumeItem_keepsStopped) h
  | discipline => exact .of_keeps (.serveManagement _ s disciplineItem_keepsStopped) h
  | deviceStatus => exact .of_keeps (.serveManagement _ s fun _ u => .refl u) h
  | portStatus => exact .of_keeps (.serveManagement _ s portStatusItem_keepsStopped) h
  | ackAlerts => exact .of_keeps (.serveManagement _ s ackAlertsItem_keepsStopped) h
  | unknownKind => exact .of_keeps (.serveUnknown s) h
  | portRstRise p => exact .of_keeps (.portRstRise p s) h
  | portRstFall p => exact .of_keeps (.portRstFall p s) h
  | resetItem => exact .of_keeps (.resetItem s) h
  | nresetFall =>
    simp only [exec, execNresetFall] at h
    split at h
    · exact .of_deviceReset (.inl rfl) (.beginReset s) h
    · exact .of_keeps (.refl s) h
  | nresetRise =>
    simp only [exec, execNresetRise] at h
    split at h
    · exact .of_keeps (.refl s) h
    · exact .of_deviceReset (.inr (.inl rfl)) (.endReset s) h
  | powerOn high =>
    simp only [exec, execPowerOn] at h
    split at h
    · exact .of_deviceReset (.inr (.inr ⟨_, rfl⟩)) (.endReset s) h
    · exact .of_deviceReset (.inr (.inr ⟨_, rfl⟩)) (.beginReset s) h
  | tickEnd =>
    simp only [exec, execTickEnd] at h
    split at h
    · next hrun => exact .of_keeps (.tickEnd hrun) h
    · exact .of_keeps (.refl s) h
  | expiryOffer => exact .of_keeps (.expiryOffer s) h
  | expiryItem => exact .of_keeps (.expiryItem s) h
  | gapAssert n =>
    simp only [exec, execGapAssert] at h
    split at h
    · exact .of_keeps (.modifyLine ..) h
    · exact .of_keeps (.refl s) h
  | holdTakesEffect =>
    simp only [exec, execHoldTakesEffect] at h
    split at h
    · next hheld => exact .of_keeps (.tickEnd (Bool.and_eq_true_iff.mp hheld).1) h
    · exact .of_keeps (.refl s) h
  | syncEdge k => exact .of_keeps (.syncEdge k s) h
  | syncWindowMiss => exact .of_keeps (.windowMiss s) h
  | commandByte l b selectedInReset => exact .of_keeps (.commandByte ..) h

/-- Settles O54: the three cases of `exec_stopped_cases`, and a REFCLK cycle, which acts on a RUNNING clock only. -/
theorem stoppedOnlyBeforeClockStart : Obligations.StoppedOnlyBeforeClockStart := by
  unfold Obligations.StoppedOnlyBeforeClockStart
  intro c s t hok hexec
  obtain ⟨hstate, hcycle⟩ := KeepsStopped.refclk s
  refine ⟨?_, hcycle hok, hstate, ?_⟩
  · rcases exec_stopped_cases hexec with hkeeps | ⟨-, hstarted⟩ | ⟨-, -, hreset⟩
    · exact hkeeps.2 hok
    · exact fun hstopped => absurd hstopped hstarted
    · exact hreset
  · rcases exec_stopped_cases hexec with hkeeps | ⟨hc, hstarted⟩ | ⟨hc, hstopped, -⟩
    · exact ⟨fun hs ht => absurd (hkeeps.1.mpr hs) ht, fun hs ht => absurd (hkeeps.1.mp ht) hs⟩
    · exact ⟨fun _ _ => hc, fun _ ht => absurd ht hstarted⟩
    · exact ⟨fun _ ht => absurd hstopped ht, fun _ _ => hc⟩

end Sys2Proof.Machine

/-!
PROOF. VALIDATE classifies a token (R109) and reports it (R110). The tokens of the holders of one entry are distinct (R105), so
the holder that the classification finds is the one that carries the token.
-/
namespace Sys2Proof.Machine

/-! The holder that carries a token. -/

/-- A record carries a token as the classification looks for it: its grant has that token. -/
theorem State.tokenOf_eq_some_iff {s : State} {h : Handle} {x : Lease} (hx : s.lease h.index = some x) (token : Nat) :
    s.tokenOf h = some token ↔ x.phase.grant.any (fun g => g.token == token) = true := by
  simp [State.tokenOf, hx, Option.any_eq_true]

/-- What the classification finds is the lease of a holder that carries the token. -/
theorem State.holder_of_holderOfToken {s : State} {e : Entry} {token : Nat} {x : Lease}
    (hfound : s.holderOfToken e token = some x) :
    ∃ h ∈ e.holders, s.lease h.index = some x ∧ s.tokenOf h = some token := by
  unfold State.holderOfToken at hfound
  obtain ⟨h, hmem, hx⟩ := List.mem_filterMap.mp (List.mem_of_find?_eq_some hfound)
  have hcarries := List.find?_some hfound
  exact ⟨h, hmem, hx, (State.tokenOf_eq_some_iff hx token).mpr hcarries⟩

theorem State.holderOfToken_eq_none {s : State} {e : Entry} {token : Nat}
    (hnone : ∀ h ∈ e.holders, s.tokenOf h ≠ some token) : s.holderOfToken e token = none := by
  refine Option.eq_none_iff_forall_ne_some.mpr fun x hfound => ?_
  obtain ⟨h, hmem, -, htoken⟩ := State.holder_of_holderOfToken hfound
  exact hnone h hmem htoken

/-- The classification finds the lease of any holder that carries the token, as no other holder carries it (R105). -/
theorem State.holderOfToken_eq_some {s : State} {e : Entry} {token : Nat} {h : Handle} {x : Lease}
    (hdistinct : (e.holders.map s.tokenOf).Nodup) (hmem : h ∈ e.holders) (htoken : s.tokenOf h = some token)
    (hx : s.lease h.index = some x) : s.holderOfToken e token = some x := by
  have hfinds : (s.holderOfToken e token).isSome :=
    List.find?_isSome.mpr ⟨x, List.mem_filterMap.mpr ⟨h, hmem, hx⟩, (State.tokenOf_eq_some_iff hx token).mp htoken⟩
  obtain ⟨y, hfound⟩ := Option.isSome_iff_exists.mp hfinds
  obtain ⟨k, hk, hy, hktoken⟩ := State.holder_of_holderOfToken hfound
  obtain rfl : k = h := List.inj_on_of_nodup_map hdistinct hk hmem (hktoken.trans htoken.symm)
  rw [hfound, ← hy, hx]

@[simp] theorem State.takeRequest_holderOfToken (s : State) (l : Link) (e : Entry) (token : Nat) :
    (s.takeRequest l).holderOfToken e token = s.holderOfToken e token := by
  simp [State.holderOfToken]

/-! The classification, by its conditions (R109). -/

theorem State.classifyToken_of_counter_lt (s : State) {e : Entry} {token : Nat} (hgt : e.counter < token) :
    s.classifyToken e token = answer .unissued (leBytes 4 e.counter) s := by
  simp [State.classifyToken, hgt]

theorem State.classifyToken_of_no_holder {s : State} {e : Entry} {token : Nat} (hle : token ≤ e.counter)
    (hnone : s.holderOfToken e token = none) :
    s.classifyToken e token = answer .superseded (leBytes 4 e.counter) s := by
  simp [State.classifyToken, Nat.not_lt.mpr hle, hnone]

theorem State.classifyToken_of_exclusive {s : State} {e : Entry} {token : Nat} {x : Lease} (hle : token ≤ e.counter)
    (hfound : s.holderOfToken e token = some x) (hstate : e.state = .exclusive) :
    s.classifyToken e token = answer .currentExclusive (currentBody x e.counter) s := by
  simp [State.classifyToken, Nat.not_lt.mpr hle, hfound, hstate]

theorem State.classifyToken_of_shared {s : State} {e : Entry} {token : Nat} {x : Lease} (hle : token ≤ e.counter)
    (hfound : s.holderOfToken e token = some x) (hstate : e.state = .shared) :
    s.classifyToken e token = answer .currentShared (currentBody x e.counter) s := by
  simp [State.classifyToken, Nat.not_lt.mpr hle, hfound, hstate]

/-! The item. -/

theorem Kind.validate_permitted (l : Link) : Kind.validate.permitted l = true := by
  cases l <;> rfl

theorem validateItem_of_no_entry (l : Link) {f : Frame} {s : State} (he : s.entry (field f.body 0 2) = none) :
    validateItem l f s = refuse .noResource s := by
  simp [validateItem, readResource, he]

theorem validateItem_of_entry (l : Link) {f : Frame} {s : State} {e : Entry}
    (he : s.entry (field f.body 0 2) = some e) :
    validateItem l f s = s.classifyToken e (field f.body 2 4) := by
  simp [validateItem, readResource, he]

/-- A VALIDATE whose item gives an answer and the state in which it was taken changes nothing else (R110). -/
theorem validate_repliesOnly {l : Link} {f : Frame} {s : State} {status : Status} {body : List Byte}
    (hserves : s.serves .validate l f)
    (hitem : validateItem l f (s.takeRequest l) = answer status body (s.takeRequest l)) :
    RepliesOnly .validate l f s status body := by
  have ⟨_, hkind, _⟩ := hserves
  exact item_replies_only (k := .validate) rfl hserves hitem (recorded_of_kind hkind (by decide))

/-- VALIDATE of a declared entry's id answers what the classification of its token does. -/
theorem validate_repliesOnly_of_classifyToken {l : Link} {f : Frame} {s : State} {e : Entry} {status : Status}
    {body : List Byte} (hserves : s.serves .validate l f) (he : s.entry (field f.body 0 2) = some e)
    (hclass : (s.takeRequest l).classifyToken e (field f.body 2 4) = answer status body (s.takeRequest l)) :
    RepliesOnly .validate l f s status body :=
  validate_repliesOnly hserves ((validateItem_of_entry l (by simpa using he)).trans hclass)

/-- Settles O35: one answer of the classification for each condition of R109, the holder's lease being the only one that
carries the token. -/
theorem validateClassifiesToken : Obligations.ValidateClassifiesToken := by
  unfold Obligations.ValidateClassifiesToken
  intro l f s
  refine ⟨Kind.validate_permitted l, fun hserves => ⟨fun he => ?noResource, fun e he hok => ⟨fun hgt => ?unissued,
    fun hle hnone => ?superseded, fun h x hle hmem htoken hx => ?current⟩⟩⟩
  case noResource => exact validate_repliesOnly hserves (validateItem_of_no_entry l (by simpa using he))
  case unissued => exact validate_repliesOnly_of_classifyToken hserves he (State.classifyToken_of_counter_lt _ hgt)
  case superseded =>
    have hfound := State.holderOfToken_eq_none hnone
    exact validate_repliesOnly_of_classifyToken hserves he
      (State.classifyToken_of_no_holder hle (by simpa using hfound))
  case current =>
    obtain ⟨-, -, -, -, -, -, -, -, hdistinct, -⟩ := hok
    have hfound : (s.takeRequest l).holderOfToken e (field f.body 2 4) = some x := by
      simpa using State.holderOfToken_eq_some hdistinct hmem htoken hx
    exact ⟨fun hstate => validate_repliesOnly_of_classifyToken hserves he
        (State.classifyToken_of_exclusive hle hfound hstate),
      fun hstate => validate_repliesOnly_of_classifyToken hserves he
        (State.classifyToken_of_shared hle hfound hstate)⟩

end Sys2Proof.Machine
